-- ==== Sys2Proof/Word.lean ====
section
/-! DEFINITION. The port words of OFDM-RXFE: binary32 values, complex samples, and the few constants the rules name.
Arithmetic on them is the numerics record of Config.lean; nothing here computes with a binary32 value. -/

namespace Sys2Proof

/-- `f32`: the 32 bits of a binary32 value, sign bit 31, exponent 30:23, fraction 22:0 (R11). -/
abbrev F32 := BitVec 32

/-- `+0.0` -/
def F32.posZero : F32 := 0x00000000#32
/-- `-0.0` -/
def F32.negZero : F32 := 0x80000000#32
/-- `1.0`, the constant of R124. -/
def F32.one : F32 := 0x3F800000#32
/-- `2.0`, the constant of R118. -/
def F32.two : F32 := 0x40000000#32

/-- `c32`: a complex sample, the ordered pair (real, imag) (R11, R69). -/
structure C32 where
  re : F32
  im : F32
deriving DecidableEq, Repr, Inhabited

/-- `0c`, the pair `(+0.0, +0.0)` (R11). -/
def C32.zero : C32 := ⟨F32.posZero, F32.posZero⟩

end Sys2Proof
end

