-- ==== Sys2Proof/Config.lean ====
section
/-! DEFINITION. What the spec leaves to an implementation (R9, R16) and its free values (`draw`, R12), as one record of
parameters that every meaning takes, and the one uninterpreted constant `Config.params` that the machine uses. Nothing can be
evaluated or proved about a field of `Config.params`, so a claim about the machine holds for every choice. -/

namespace Sys2Proof

/-- `MAX_NUM_SYMBOLS` is 1000 and is not configurable (R8). -/
def maxNumSymbols : Nat := 1000

/-- The numerics record `NUM` (R16): total functions of their operands, of which nothing else is assumed (log 6). -/
structure Numerics where
  fadd : F32 → F32 → F32
  fmul : F32 → F32 → F32
  fdiv : F32 → F32 → F32
  /-- a > b -/
  fgt : F32 → F32 → Bool
  /-- x < 0 -/
  lt0 : F32 → Bool
  cadd : C32 → C32 → C32
  csub : C32 → C32 → C32
  cmul : C32 → C32 → C32
  cdiv : C32 → C32 → C32
  /-- a complex by a real -/
  cdivr : C32 → F32 → C32
  cabs : C32 → F32
  cnorm2 : C32 → F32
  /-- `phase d n CP F` -/
  phase : Int → Nat → Nat → Nat → C32
  /-- `phaseTab h n M CP F`, the value `AE.CFG` stores in `LUT[h][n]` -/
  phaseTab : Nat → Nat → Nat → Nat → Nat → C32
  /-- finite and positive -/
  finpos : F32 → Bool
deriving Inhabited

/-- `P_SREG_ON_RETURN` (R9, R147; log 7). -/
inductive SregPolicy where
  | hold
  | clear
deriving DecidableEq, Repr, Inhabited

/-- Everything a realization fixes and every free value. A `draw` function is applied to a counter of the state, so each
draw is a fresh value (log 5). -/
structure Params where
  num : Numerics
  sregOnReturn : SregPolicy
  /-- `N_MAX - 1` (log 8: a realization supports the smallest legal configuration) -/
  nExtra : Nat
  /-- `F_MAX - 4` -/
  fExtra : Nat
  /-- `O_MAX - 1` -/
  oExtra : Nat
  /-- `M_MAX - 1` -/
  mExtra : Nat
  /-- `CP_MAX` -/
  cpMax : Nat
  /-- `draw c32` (R127) -/
  drawC32 : Nat → C32
  /-- `draw bit` (R150) -/
  drawBit : Nat → Bool
  /-- the number from which `draw` over the search window is taken (R115) -/
  drawHyp : Nat → Nat
  /-- what an array index outside its range reads; no operation of a configured unit forms one (R132; log 9) -/
  noValue : C32
deriving Inhabited

/-- `N_MAX` (R9). -/
def Params.nMax (P : Params) : Nat := P.nExtra + 1
/-- `F_MAX` (R9). -/
def Params.fMax (P : Params) : Nat := P.fExtra + 4
/-- `O_MAX` (R9). -/
def Params.oMax (P : Params) : Nat := P.oExtra + 1
/-- `M_MAX` (R9). -/
def Params.mMax (P : Params) : Nat := P.mExtra + 1

/-- The parameters of the machine: uninterpreted, so no proof can depend on a value of theirs (logs 5 to 9). -/
opaque Config.params : Params

end Sys2Proof
end

