-- ==== Sys2Proof/Syntax.lean ====
section
/-! DEFINITION. The operations of OFDM-RXFE as the host presents them (a selector word and port words) and as the machine
reads them: one constructor of `Instr` per row of spec/opcode_table.json (R80, R81). -/

namespace Sys2Proof

/-- An operation as it is presented (R80): the selector word `SEL`, a u12, and the operand payload, one list of port words
for each operand port. A port word is given by its unsigned value; the format says how wide it is (R70; log 4). The tuple
formats have one port per antenna (R82), every other payload stands on one port. -/
structure RawOp where
  sel : BitVec 12
  payload : List (List Nat)
deriving DecidableEq, Repr, Inhabited

/-- `PHASE_SRC` (R29). -/
inductive PhaseSrc where
  | direct
  | lut
deriving DecidableEq, Repr, Inhabited

/-- The symbols of one tuple: antenna 0 first, each a list of samples (R82). -/
abbrev Tuple := List (List C32)

/-- `FMT_AECFG` (R88). `KLEN` is the length of `ksym`. `phaseSrc` is `DIRECT` where the operand omits it (R9). -/
structure AeCfgOperand where
  nch : Nat
  fftLen : Nat
  occ : Nat
  cpLen : Nat
  maxShift : Nat
  phaseSrc : PhaseSrc := .direct
  ksym : List C32
deriving DecidableEq, Repr, Inhabited

/-- `FMT_HPCFG` (R88): naturals where the configuration's checks limit the range (R178). -/
structure HpCfgOperand where
  variant : BitVec 2
  acLen : Nat
  pattern : BitVec 64
  thresh : Nat
  bpsInit : Nat
  scramble : Bool
deriving DecidableEq, Repr, Inhabited

/-- The operations. An operand is `none` when the payload presented does not hold its format; the unit then refuses it, but
only after the checks that come before that one (R194). -/
inductive Instr where
  /-- configure and reset the acquisition engine (R175) -/
  | aeCfg (cfg : Option AeCfgOperand)
  /-- data tuple (R131) -/
  | aeDat (tuple : Option Tuple)
  /-- preamble tuple (R130) -/
  | aePre (flag : BitVec 8) (tuple : Option Tuple)
  /-- one hard-decided bit (R151) -/
  | hpBit (b : Bool)
  /-- one soft-decided sample (R152) -/
  | hpSoft (x : Option F32)
  /-- format request (R167) -/
  | hpFmt (nbytes : Option (BitVec 32))
  /-- header size in bits (R169) -/
  | hpQnbits
  /-- header size in bytes (R170) -/
  | hpQnbytes
  /-- configure and reset the header parser/codec (R177) -/
  | hpCfg (cfg : Option HpCfgOperand)
deriving DecidableEq, Repr, Inhabited

/-- The rows of the operation map, without operands. -/
inductive OpKind where
  | aeCfg | aeDat | aePre | hpBit | hpSoft | hpFmt | hpQnbits | hpQnbytes | hpCfg
deriving DecidableEq, Repr, Inhabited

/-- The row an operation stands in. -/
def Instr.kind : Instr → OpKind
  | .aeCfg _ => .aeCfg
  | .aeDat _ => .aeDat
  | .aePre _ _ => .aePre
  | .hpBit _ => .hpBit
  | .hpSoft _ => .hpSoft
  | .hpFmt _ => .hpFmt
  | .hpQnbits => .hpQnbits
  | .hpQnbytes => .hpQnbytes
  | .hpCfg _ => .hpCfg

/-- The mnemonic of a row (R81), the first word of a line of the textual notation (R98). -/
def OpKind.mnemonic : OpKind → String
  | .aeCfg => "AE.CFG"
  | .aeDat => "AE.DAT"
  | .aePre => "AE.PRE"
  | .hpBit => "HP.BIT"
  | .hpSoft => "HP.SOFT"
  | .hpFmt => "HP.FMT"
  | .hpQnbits => "HP.QNBITS"
  | .hpQnbytes => "HP.QNBYTES"
  | .hpCfg => "HP.CFG"

/-- The two units (R1). -/
inductive UnitId where
  | ae
  | hp
deriving DecidableEq, Repr, Inhabited

/-- The unit a row belongs to (R81). -/
def OpKind.unit : OpKind → UnitId
  | .aeCfg => .ae
  | .aeDat => .ae
  | .aePre => .ae
  | .hpBit => .hp
  | .hpSoft => .hp
  | .hpFmt => .hp
  | .hpQnbits => .hp
  | .hpQnbytes => .hp
  | .hpCfg => .hp

end Sys2Proof
end

