-- ==== Sys2Proof/WellFormed.lean ====
section
/-! DEFINITION. Which operations can be presented so that the operand holds its format: what the encoder can write. -/

namespace Sys2Proof

/-- The operand payload holds its format (R82, R85, R86, R88). -/
def Instr.operandsPresent : Instr → Bool
  | .aeCfg cfg => cfg.isSome
  | .aeDat tuple => tuple.isSome
  | .aePre _ tuple => tuple.isSome
  | .hpBit _ => true
  | .hpSoft x => x.isSome
  | .hpFmt nbytes => nbytes.isSome
  | .hpQnbits => true
  | .hpQnbytes => true
  | .hpCfg cfg => cfg.isSome

/-- The flag byte of a preamble tuple is nonzero: `0x00` selects `AE.DAT` (R83). -/
def Instr.flagNonzero : Instr → Bool
  | .aePre flag _ => flag != 0#8
  | .aeCfg _ => true
  | .aeDat _ => true
  | .hpBit _ => true
  | .hpSoft _ => true
  | .hpFmt _ => true
  | .hpQnbits => true
  | .hpQnbytes => true
  | .hpCfg _ => true

/-- An operation the encoder can write. The tuple's shape is not a matter of syntax: it depends on the configuration, and
the unit checks it (R110). -/
def Instr.wellFormed (i : Instr) : Bool := i.operandsPresent && i.flagNonzero

end Sys2Proof
end

