-- ==== Sys2Proof/Decode.lean ====
section
/-! DEFINITION. The decoder: the operation map of R81 tried top to bottom, the operand formats of R82 to R88, and the encoder
written from the same tables. Total on every presented operation. -/

namespace Sys2Proof

/-! ### Packing of a complex sample (R69) -/

/-- A complex sample on a port: real part in bits 31:0, imaginary part in bits 63:32 (R69). -/
def C32.toWord (z : C32) : BitVec 64 := z.im ++ z.re

/-- The complex sample of a port word (R69). -/
def C32.ofWord (w : BitVec 64) : C32 := ⟨w.extractLsb' 0 32, w.extractLsb' 32 32⟩

/-! ### Port words -/

/-- A port word read at a width; a value that does not fit is no word of that width. -/
def readWord (width w : Nat) : Option (BitVec width) :=
  if w < 2 ^ width then some (BitVec.ofNat width w) else none

/-- A one-bit port word. -/
def readBit : Nat → Option Bool
  | 0 => some false
  | 1 => some true
  | _ + 2 => none

/-- A one-bit port word, written. -/
def writeBit (b : Bool) : Nat := if b then 1 else 0

/-- A port word that holds a complex sample. -/
def readC32 (w : Nat) : Option C32 := (readWord 64 w).map C32.ofWord

/-- The port word of a complex sample. -/
def writeC32 (z : C32) : Nat := z.toWord.toNat

/-- Read every element of a list, or nothing if one cannot be read. -/
def readAll {α β : Type} (f : α → Option β) : List α → Option (List β)
  | [] => some []
  | x :: xs =>
    match f x, readAll f xs with
    | some y, some ys => some (y :: ys)
    | _, _ => none

/-- `PHASE_SRC`: 0 is DIRECT, 1 is LUT (R29). -/
def PhaseSrc.ofBit (b : Bool) : PhaseSrc := if b then .lut else .direct

/-- The bit of a `PHASE_SRC` (R29). -/
def PhaseSrc.toBit : PhaseSrc → Bool
  | .direct => false
  | .lut => true

/-! ### Operand formats -/

/-- `FMT_TUPLE`: one list of complex words per antenna port (R82). -/
def readTuple (payload : List (List Nat)) : Option Tuple := readAll (readAll readC32) payload

/-- `FMT_SOFT`: one f32 word (R85). -/
def readSoft : List (List Nat) → Option F32
  | [[w]] => readWord 32 w
  | _ => none

/-- `FMT_FMT`: one u32 word (R86). -/
def readFmt : List (List Nat) → Option (BitVec 32)
  | [[w]] => readWord 32 w
  | _ => none

/-- `FMT_AECFG`: `N F O CP M PHASE_SRC KLEN` and then exactly `KLEN` known-symbol words (R88, R175). -/
def readAeCfg : List (List Nat) → Option AeCfgOperand
  | [n :: f :: o :: cp :: m :: src :: klen :: ks] =>
    if ks.length = klen then
      match readBit src, readAll readC32 ks with
      | some b, some k =>
        some { nch := n, fftLen := f, occ := o, cpLen := cp, maxShift := m, phaseSrc := .ofBit b, ksym := k }
      | _, _ => none
    else none
  | _ => none

/-- `FMT_HPCFG`: `VARIANT L_ac PATTERN THRESH BPS_INIT SCRAMBLE` (R88). -/
def readHpCfg : List (List Nat) → Option HpCfgOperand
  | [[var, len, pat, th, bps, scr]] =>
    match readWord 2 var, readWord 64 pat, readBit scr with
    | some v, some p, some b =>
      some { variant := v, acLen := len, pattern := p, thresh := th, bpsInit := bps, scramble := b }
    | _, _, _ => none
  | _ => none

/-! ### The operation map -/

/-- `PORT`, `SEL[11:8]` (R80). -/
def selPort (sel : BitVec 12) : BitVec 4 := sel.extractLsb' 8 4

/-- `SUB`, `SEL[7:0]` (R80). -/
def selSub (sel : BitVec 12) : BitVec 8 := sel.extractLsb' 0 8

/-- One row of the operation map. -/
structure MapRow where
  kind : OpKind
  pattern : BitVec 12
  mask : BitVec 12
  /-- the condition `SUB != 0` of the row of `AE.PRE` -/
  subNonzero : Bool := false
deriving DecidableEq, Repr

/-- The row selects a selector word: `SEL AND mask = match`, and its condition holds (R81). -/
def MapRow.selects (r : MapRow) (sel : BitVec 12) : Bool :=
  (sel &&& r.mask == r.pattern) && (!r.subNonzero || selSub sel != 0#8)

/-- The operation map (R81). -/
def operationMap : List MapRow := [
  { kind := .aeCfg,     pattern := 0x000#12, mask := 0xFFF#12 },
  { kind := .aeDat,     pattern := 0x100#12, mask := 0xFFF#12 },
  { kind := .aePre,     pattern := 0x100#12, mask := 0xF00#12, subNonzero := true },
  { kind := .hpBit,     pattern := 0x200#12, mask := 0xFFE#12 },
  { kind := .hpSoft,    pattern := 0x300#12, mask := 0xFFF#12 },
  { kind := .hpFmt,     pattern := 0x400#12, mask := 0xFFF#12 },
  { kind := .hpQnbits,  pattern := 0x500#12, mask := 0xFFF#12 },
  { kind := .hpQnbytes, pattern := 0x501#12, mask := 0xFFF#12 },
  { kind := .hpCfg,     pattern := 0x600#12, mask := 0xFFF#12 } ]

/-- Rows are tried top to bottom; the first that selects the word is the operation (R81). -/
def selectRow (sel : BitVec 12) : Option OpKind :=
  (operationMap.find? (fun r => r.selects sel)).map (·.kind)

/-- Why the decoder rejects a selector word; both are `RF_RESERVED` (R97). -/
inductive Reject where
  /-- `PORT` 0x7 to 0xF -/
  | reservedPort
  /-- a `SUB` that the port does not define -/
  | reservedSub
deriving DecidableEq, Repr

/-- The operands of a presented operation, read in the format of its row. A row without payload reads none (log 4). -/
def readOperands (op : RawOp) : OpKind → Instr
  | .aeCfg => .aeCfg (readAeCfg op.payload)
  | .aeDat => .aeDat (readTuple op.payload)
  | .aePre => .aePre (selSub op.sel) (readTuple op.payload)
  | .hpBit => .hpBit (op.sel.getLsbD 0)
  | .hpSoft => .hpSoft (readSoft op.payload)
  | .hpFmt => .hpFmt (readFmt op.payload)
  | .hpQnbits => .hpQnbits
  | .hpQnbytes => .hpQnbytes
  | .hpCfg => .hpCfg (readHpCfg op.payload)

/-- The decoder (R80): exactly one row, or a rejection. -/
def decode (op : RawOp) : Except Reject Instr :=
  match selectRow op.sel with
  | some kind => .ok (readOperands op kind)
  | none => .error (if (selPort op.sel).toNat ≥ 7 then .reservedPort else .reservedSub)

/-! ### The encoder -/

/-- The selector word of an operation (R81). -/
def encodeSel : Instr → BitVec 12
  | .aeCfg _ => 0x000#12
  | .aeDat _ => 0x100#12
  | .aePre flag _ => 0x1#4 ++ flag
  | .hpBit b => if b then 0x201#12 else 0x200#12
  | .hpSoft _ => 0x300#12
  | .hpFmt _ => 0x400#12
  | .hpQnbits => 0x500#12
  | .hpQnbytes => 0x501#12
  | .hpCfg _ => 0x600#12

/-- The payload of `FMT_AECFG` (R88). -/
def writeAeCfg (c : AeCfgOperand) : List (List Nat) :=
  [c.nch :: c.fftLen :: c.occ :: c.cpLen :: c.maxShift :: writeBit c.phaseSrc.toBit :: c.ksym.length ::
    c.ksym.map writeC32]

/-- The payload of `FMT_HPCFG` (R88). -/
def writeHpCfg (c : HpCfgOperand) : List (List Nat) :=
  [[c.variant.toNat, c.acLen, c.pattern.toNat, c.thresh, c.bpsInit, writeBit c.scramble]]

/-- The payload of `FMT_TUPLE` (R82). -/
def writeTuple (t : Tuple) : List (List Nat) := t.map (·.map writeC32)

/-- The operand payload of an operation; an absent operand has no words to write. -/
def encodePayload : Instr → List (List Nat)
  | .aeCfg cfg => (cfg.map writeAeCfg).getD []
  | .aeDat tuple => (tuple.map writeTuple).getD []
  | .aePre _ tuple => (tuple.map writeTuple).getD []
  | .hpBit _ => []
  | .hpSoft x => (x.map fun w => [[w.toNat]]).getD []
  | .hpFmt nbytes => (nbytes.map fun w => [[w.toNat]]).getD []
  | .hpQnbits => []
  | .hpQnbytes => []
  | .hpCfg cfg => (cfg.map writeHpCfg).getD []

/-- An operation as the host presents it. -/
def encode (i : Instr) : RawOp := { sel := encodeSel i, payload := encodePayload i }

/-! ### The host's table words -/

/-- The payload of zero words that a selector word is presented with: `n` symbols of `f` samples for a tuple, else as many
words as the format has with no known-symbol words. -/
def zeroPayload (n f : Nat) (sel : BitVec 12) : List (List Nat) :=
  match selectRow sel with
  | some .aeCfg => [List.replicate 7 0]
  | some .aeDat => List.replicate n (List.replicate f 0)
  | some .aePre => List.replicate n (List.replicate f 0)
  | some .hpBit => []
  | some .hpSoft => [[0]]
  | some .hpFmt => [[0]]
  | some .hpQnbits => []
  | some .hpQnbytes => []
  | some .hpCfg => [List.replicate 6 0]
  | none => []

/-- The operation whose selector word is `w` and whose operand words are zeros. -/
def tableOp (n f nbits w : Nat) : RawOp :=
  let sel := BitVec.ofNat 12 (w % 2 ^ nbits)
  { sel := sel, payload := zeroPayload n f sel }

/-- What the decoder reads from a table word: `SEL` is a u12, so a word with a higher bit set is none. The payload is of zero
words; a tuple, whose length only a configuration fixes, is the one of an unconfigured engine, no symbol. -/
def decodeTableWord (nbits w : Nat) : Option Instr :=
  if w % 2 ^ nbits < 4096 then
    match decode (tableOp 0 0 nbits w) with
    | .ok i => some i
    | .error _ => none
  else none

end Sys2Proof
end

