-- ==== Sys2Proof/Machine/State.lean ====
section
/-! DEFINITION. The state of OFDM-RXFE: the two units with every register 10_state.md gives them, what their output ports
present, and the operations the host has presented. Plain data throughout. There is no addressable memory (R60). -/

namespace Sys2Proof.Machine

/-- Fault codes (R185): `NONE` 0, `E_CFG` 1, `E_NUM` 2. The field `ae_fault` holds one of the three (R45), `hp_fault` never
holds `E_NUM` (R53, an invariant of Safety.lean). -/
inductive FaultCode where
  | none
  | eCfg
  | eNum
deriving DecidableEq, Repr, Inhabited

/-- The `info` of a fault record (R204): the number of the failing check, or the offending tap `(i, c)`. -/
inductive FaultInfo where
  | check (q : Nat)
  | tap (i c : Nat)
deriving DecidableEq, Repr, Inhabited

/-- The fault output record `{unit, code, info}` (R204). -/
structure FaultRecord where
  unit : UnitId
  code : FaultCode
  info : FaultInfo
deriving DecidableEq, Repr, Inhabited

/-- Refusal codes (R185, R192). -/
inductive RfCode where
  | reserved
  | halted
  | unconfigured
  | badOperand
  | unsupported
deriving DecidableEq, Repr, Inhabited

/-- The machine never stops with a fault of its own: the spec's faults halt one unit and leave the machine running, so they
are next states (R188, R203), and no operation can address what does not exist (R60). -/
inductive Fault where
deriving DecidableEq, Repr

/-- Why an operation has no meaning in a state. -/
inductive Refusal where
  /-- Raised by an arm of `exec` that has no meaning yet. Safe: the run stops. No arm raises it. -/
  | notModelled (mnemonic : String)
  /-- Raised by a meaning whose rule says `refuse RF_<name>` (R12, R192): nothing changes and the code is reported to the
  host; `step` then goes on to the next operation presented. Safe: it is the spec's own outcome. -/
  | rf (code : RfCode)
deriving DecidableEq, Repr

/-- `H0 VARIANT`, the values that can be stored (R30). -/
inductive Variant where
  | default
  | counter
deriving DecidableEq, Repr, Inhabited

/-- `state` of the header state machine (R46). -/
inductive HpState where
  | search
  | header
deriving DecidableEq, Repr, Inhabited

/-- A frame descriptor (R90): a `DEFAULT` descriptor has no `bps` and no `counter` field (R163). -/
inductive Desc where
  | default (skipSamps : BitVec 64) (payloadBits : BitVec 32)
  | counter (skipSamps : BitVec 64) (payloadBits : BitVec 32) (bps counter : BitVec 16)
deriving DecidableEq, Repr, Inhabited

/-- What unit `AE` presents as the result of its last operation (R54, R89, R188). -/
inductive AeOut where
  /-- no strobe -/
  | idle
  /-- output port 0 and output port 1 -/
  | tuple (out : List C32) (outFlag : BitVec 8)
  /-- the fault output -/
  | fault (r : FaultRecord)
deriving DecidableEq, Repr, Inhabited

/-- What unit `HP` presents as the result of its last operation (R55, R90, R91, R188). -/
inductive HpOut where
  /-- no strobe -/
  | idle
  /-- `HP.DESC` -/
  | desc (d : Desc)
  /-- `HP.HDR`: the header bytes and the success bit -/
  | hdr (bytes : List (BitVec 8)) (ok : Bool)
  /-- `HP.SIZE` -/
  | size (n : Nat)
  /-- the fault output -/
  | fault (r : FaultRecord)
deriving DecidableEq, Repr, Inhabited

/-- The acquisition engine (R23 to R29, R36 to R38, R41 to R45). -/
structure AeUnit where
  /-- `A0 NCH`, N (R23) -/
  nch : Nat
  /-- `A1 FFTLEN`, F (R24) -/
  fftLen : Nat
  /-- `A2 OCC`, O (R25) -/
  occ : Nat
  /-- `A3 CPLEN`, CP (R26) -/
  cpLen : Nat
  /-- `A4 MAXSHIFT`, M (R27) -/
  maxShift : Nat
  /-- `A5 KSYM` (R28) -/
  ksym : List C32
  /-- `A6 PHASE_SRC` (R29) -/
  phaseSrc : PhaseSrc
  /-- `Z`, zeros_on_left (R36) -/
  zerosLeft : Nat
  /-- `K` (R37) -/
  kdiff : List F32
  /-- `LUT`, present only in LUT mode (R38) -/
  lut : Option (List (List C32))
  /-- `coarse_freq` (R41) -/
  coarseFreq : Int
  /-- `phase_count` (R42) -/
  phaseCount : Nat
  /-- `H[c][i]`, one list per antenna; no entry is an unwritten tap (R43, R13) -/
  taps : List (List C32)
  /-- `calibrated` (R44) -/
  calibrated : Bool
  /-- `ae_cfg` (R45) -/
  cfg : Bool
  /-- `ae_fault` (R45) -/
  fault : FaultCode
deriving DecidableEq, Repr, Inhabited

/-- The header parser/codec (R30 to R35, R39, R40, R46 to R53). -/
structure HpUnit where
  /-- `H0 VARIANT` (R30) -/
  variant : Variant
  /-- `H1 ACLEN`, L_ac (R31) -/
  acLen : BitVec 7
  /-- `H2 ACODE` (R32) -/
  acode : BitVec 64
  /-- `H3 THRESH` (R33) -/
  thresh : BitVec 7
  /-- `H4 BPS_INIT` (R34) -/
  bpsInit : BitVec 16
  /-- `H5 SCRAMBLE` (R35) -/
  scramble : Bool
  /-- `MASK` (R39) -/
  mask : BitVec 64
  /-- `HDR_NBITS` (R40) -/
  hdrNbits : Nat
  /-- `HDR_NBYTES` (R40) -/
  hdrNbytes : Nat
  /-- `HDR_BODY` (R40) -/
  hdrBody : Nat
  /-- `state` (R46) -/
  state : HpState
  /-- `sreg` (R47) -/
  sreg : BitVec 64
  /-- `hreg` (R48) -/
  hreg : BitVec 64
  /-- `hcount` (R49) -/
  hcount : Nat
  /-- `count` (R50) -/
  count : BitVec 64
  /-- `bps` (R51) -/
  bps : BitVec 16
  /-- `counter` (R52) -/
  counter : BitVec 16
  /-- `hp_cfg` (R53) -/
  cfg : Bool
  /-- `hp_fault` (R53) -/
  fault : FaultCode
deriving DecidableEq, Repr, Inhabited

/-- The whole machine. -/
structure State where
  /-- unit `AE` -/
  ae : AeUnit
  /-- unit `HP` -/
  hp : HpUnit
  /-- what unit `AE` presents (log 3) -/
  aePort : AeOut
  /-- what unit `HP` presents (log 3) -/
  hpPort : HpOut
  /-- the refusal code reported to the host by the last operation (R192; log 3) -/
  report : Option RfCode
  /-- the operations the host has presented, the next one first (R80, R75; log 4) -/
  pending : List RawOp
  /-- the model's own: how many free values unit `AE` has drawn (log 5) -/
  aeDraws : Nat
  /-- the model's own: how many free values unit `HP` has drawn (log 5) -/
  hpDraws : Nat
deriving DecidableEq, Repr, Inhabited

/-- The power-on state of unit `AE`: `ae_cfg = 0`, no fault (R45, R205); the other values are log 1's. -/
def AeUnit.powerOn : AeUnit where
  nch := 0
  fftLen := 0
  occ := 0
  cpLen := 0
  maxShift := 0
  ksym := []
  phaseSrc := .direct
  zerosLeft := 0
  kdiff := []
  lut := .none
  coarseFreq := 0
  phaseCount := 1
  taps := []
  calibrated := false
  cfg := false
  fault := .none

/-- The power-on state of unit `HP`: `hp_cfg = 0`, no fault (R53, R205); the other values are log 1's. -/
def HpUnit.powerOn : HpUnit where
  variant := .default
  acLen := 0#7
  acode := 0#64
  thresh := 0#7
  bpsInit := 0#16
  scramble := false
  mask := 0#64
  hdrNbits := 0
  hdrNbytes := 0
  hdrBody := 0
  state := .search
  sreg := 0#64
  hreg := 0#64
  hcount := 0
  count := 0#64
  bps := 0#16
  counter := 0#16
  cfg := false
  fault := .none

/-- A new instance in its power-on state (R205, R189), with nothing presented. -/
def State.reset : State where
  ae := AeUnit.powerOn
  hp := HpUnit.powerOn
  aePort := .idle
  hpPort := .idle
  report := .none
  pending := []
  aeDraws := 0
  hpDraws := 0

end Sys2Proof.Machine
end

