-- ==== Sys2Proof/Machine/Ops.lean ====
section
/-! DEFINITION. The shared operations: admission of an operation (the refusals of R192 in the order of R194), raising a fault
(R188), the named updates of the state, and reading an indexed array. -/

namespace Sys2Proof.Machine

/-! ### Codes (R185) -/

/-- The number of a fault code (R185). -/
def FaultCode.number : FaultCode → Nat
  | .none => 0
  | .eCfg => 1
  | .eNum => 2

/-- The number of a refusal code (R185). -/
def RfCode.number : RfCode → Nat
  | .reserved => 1
  | .halted => 2
  | .unconfigured => 3
  | .badOperand => 4
  | .unsupported => 5

/-! ### Named updates -/

/-- Replace unit `AE`. -/
def State.withAe (s : State) (u : AeUnit) : State := { s with ae := u }
/-- Replace unit `HP`. -/
def State.withHp (s : State) (u : HpUnit) : State := { s with hp := u }
/-- Present a result of unit `AE` (`emit`, R12). -/
def State.presentAe (s : State) (o : AeOut) : State := { s with aePort := o }
/-- Present a result of unit `HP` (`emit`, R12). -/
def State.presentHp (s : State) (o : HpOut) : State := { s with hpPort := o }
/-- Count `n` more values drawn by unit `AE`. -/
def State.countAeDraws (s : State) (n : Nat) : State := { s with aeDraws := s.aeDraws + n }
/-- Count `n` more values drawn by unit `HP`. -/
def State.countHpDraws (s : State) (n : Nat) : State := { s with hpDraws := s.hpDraws + n }

/-! ### Admission (R192, R194) -/

/-- The fault field of a unit. -/
def State.unitFault (s : State) : UnitId → FaultCode
  | .ae => s.ae.fault
  | .hp => s.hp.fault

/-- The `cfg` bit of a unit. -/
def State.unitCfg (s : State) : UnitId → Bool
  | .ae => s.ae.cfg
  | .hp => s.hp.cfg

/-- The refusals every operation of a unit is checked for first: `RF_HALTED` when the unit holds a fault, then
`RF_UNCONFIGURED` when its `cfg` bit is 0, which does not apply to the configuration operation (R194; R110, R135). -/
def gate (unit : UnitId) (isCfg : Bool) (s : State) : Option RfCode :=
  if s.unitFault unit ≠ .none then some .halted
  else if !isCfg && !s.unitCfg unit then some .unconfigured
  else none

/-! ### Raising a fault (R188) -/

/-- `raise E_<name>(info)`: the unit's fault field takes the code, the record `{unit, code, info}` stands on the unit's
fault output and nothing else is presented. The unit is halted from then on, for `gate` refuses every operation of it; the
other unit is unaffected. The spec has no return from a fault: no handler, no saved context and no clearing operation, only
a new instance, which is `State.reset` (R189). -/
def raiseFault (unit : UnitId) (code : FaultCode) (info : FaultInfo) (s : State) : State :=
  match unit with
  | .ae => (s.withAe { s.ae with fault := code }).presentAe (.fault ⟨.ae, code, info⟩)
  | .hp => (s.withHp { s.hp with fault := code }).presentHp (.fault ⟨.hp, code, info⟩)

/-! ### Indexed arrays -/

/-- Element `i` of an array, or `d` where the array has no such element. -/
def nth {α : Type} (d : α) (l : List α) (i : Nat) : α := (l[i]?).getD d

/-- Element `j` of row `i` of a two-dimensional array. -/
def nth2 {α : Type} (d : α) (rows : List (List α)) (i j : Nat) : α := nth d (nth [] rows i) j

/-- An array element at an integer index; a negative index has none (R132 shows that no rule forms one). -/
def nthInt {α : Type} (d : α) (l : List α) : Int → α
  | .ofNat i => nth d l i
  | .negSucc _ => d

end Sys2Proof.Machine
end

