-- ==== Sys2Proof/Machine/Operands.lean ====
section
/-! DEFINITION. Operand and result forms: the tuple's shape, the classes of a binary32 value, the soft slicer, the access code
as a bit string, bytes on the bit stream, and results as port words. -/

namespace Sys2Proof.Machine

/-! ### Classes of a binary32 value, from its layout (R11) -/

/-- NaN: exponent all ones and a nonzero fraction. -/
def isNaN (x : F32) : Bool := x.extractLsb' 23 8 == 0xFF#8 && x.extractLsb' 0 23 != 0#23

/-- A zero of either sign. -/
def isZero (x : F32) : Bool := x.extractLsb' 0 31 == 0#31

/-- `z = 0c` as check 7 of `AE.CFG` takes it: both parts zero, of either sign (R176). -/
def isZeroC (z : C32) : Bool := isZero z.re && isZero z.im

/-! ### Tuples (R82) -/

/-- `N` symbols of `F` samples. -/
def tupleShape (n f : Nat) (t : Tuple) : Bool := t.length == n && t.all (fun sym => sym.length == f)

/-- A tuple the engine can take, or the refusal `RF_BADOPERAND` (R82, R110). -/
def takeTuple (ae : AeUnit) : Option Tuple → Except RfCode Tuple
  | some t => if tupleShape ae.nch ae.fftLen t then .ok t else .error .badOperand
  | none => .error .badOperand

/-! ### The soft slicer (R150) -/

/-- The bit a sample stands for is not decided by the rule: `-0.0` or NaN (R150). -/
def sliceOpen (x : F32) : Bool := isNaN x || x == F32.negZero

/-- `slice(x)`, with the bit the unit draws as the argument `drawn`: drawn for `-0.0` and NaN, 0 for `+0.0`, else 1 exactly
when `NUM.lt0(x)` (R150). -/
def slice (num : Numerics) (drawn : Bool) (x : F32) : Bool :=
  if sliceOpen x then drawn else if x == F32.posZero then false else num.lt0 x

/-! ### The access code as a bit string (R96) -/

/-- The value of a bit string, leftmost bit most significant: `sum over t of a_t * 2^(L-t)` (R96). -/
def bitsValue (bits : List Bool) : Nat := bits.foldl (fun v b => 2 * v + b.toNat) 0

/-- The configuration operand whose access code is given as a bit string `a_1 .. a_L`, leftmost first (R96, R177). -/
def hpCfgOfBits (variant : BitVec 2) (bits : List Bool) (thresh bpsInit : Nat) (scramble : Bool) : HpCfgOperand where
  variant := variant
  acLen := bits.length
  pattern := BitVec.ofNat 64 (bitsValue bits)
  thresh := thresh
  bpsInit := bpsInit
  scramble := scramble

/-! ### Bytes and fields on the bit stream (R65, R66) -/

/-- The eight stream bits of a byte, bit 7 first (R65). -/
def byteBits (v : BitVec 8) : List Bool :=
  [v.getLsbD 7, v.getLsbD 6, v.getLsbD 5, v.getLsbD 4, v.getLsbD 3, v.getLsbD 2, v.getLsbD 1, v.getLsbD 0]

/-- The stream bits of a byte string (R65, R68). -/
def bytesBits (bytes : List (BitVec 8)) : List Bool := bytes.flatMap byteBits

/-- A 16-bit field as two bytes, big-endian (R66). -/
def fieldBytes (x : BitVec 16) : List (BitVec 8) := [x.extractLsb' 8 8, x.extractLsb' 0 8]

/-! ### Results as port words (R89, R91) -/

/-- Output port 0 as words, `out[0]` first (R69, R89). -/
def AeOut.words : AeOut → List (BitVec 64)
  | .idle => []
  | .tuple out _ => out.map C32.toWord
  | .fault _ => []

/-- The descriptor's `skip_samps` (R90). -/
def Desc.skip : Desc → BitVec 64
  | .default s _ => s
  | .counter s _ _ _ => s

/-- The descriptor's `payload_bits` (R90). -/
def Desc.payload : Desc → BitVec 32
  | .default _ p => p
  | .counter _ p _ _ => p

end Sys2Proof.Machine
end

