-- ==== Sys2Proof/Machine/Flags.lean ====
section
/-! DEFINITION. The one-bit results the rules compute: the frame-start flag, the access-code match, the header check. -/

namespace Sys2Proof.Machine

/-- `out_flag` of `AE.PRE` (R128). -/
def preambleFlag : BitVec 8 := 0x01#8
/-- `out_flag` of `AE.DAT` (R128). -/
def dataFlag : BitVec 8 := 0x00#8

/-- The number of 1 bits (R10). -/
def popcount (v : BitVec 64) : Nat := (List.range 64).countP (fun i => v.getLsbD i)

/-- `MASK`: the low `L_ac` bits (R39). -/
def maskOf (acLen : Nat) : BitVec 64 := BitVec.ofNat 64 (2 ^ acLen - 1)

/-- The Hamming distance of the correlator: only the bits of `MASK` count (R138, R160). -/
def codeDistance (acode mask sreg : BitVec 64) : Nat := popcount ((sreg ^^^ acode) &&& mask)

/-- The match test (R138). -/
def codeMatches (acode mask : BitVec 64) (thresh : BitVec 7) (sreg : BitVec 64) : Bool :=
  codeDistance acode mask sreg ≤ thresh.toNat

/-- `header_ok`: the two copies of `len` agree (R142, R143). -/
def headerOk (v : Variant) (hreg : BitVec 64) : Bool :=
  match v with
  | .default => (hreg.extractLsb' 16 16 ^^^ hreg.extractLsb' 0 16) == 0#16
  | .counter => (hreg.extractLsb' 48 16 ^^^ hreg.extractLsb' 32 16) == 0#16

/-- `len` of a header register (R144, R145). -/
def headerLen (v : Variant) (hreg : BitVec 64) : BitVec 16 :=
  match v with
  | .default => hreg.extractLsb' 0 16
  | .counter => hreg.extractLsb' 32 16

/-- The `bps` field of a counter header register (R95). -/
def headerBps (hreg : BitVec 64) : BitVec 16 := hreg.extractLsb' 16 16

/-- The `counter` field of a counter header register (R95). -/
def headerCounter (hreg : BitVec 64) : BitVec 16 := hreg.extractLsb' 0 16

/-- `F_var`, the header field count of a variant (R17, R30). -/
def fieldCount : Variant → Nat
  | .default => 2
  | .counter => 4

end Sys2Proof.Machine
end

