-- ==== Sys2Proof/Machine/Phase.lean ====
section
/-! DEFINITION. The phase function, the phase LUT and the symbol-phase accumulator (40_phase_lut.md). -/

namespace Sys2Proof.Machine

/-- The LUT's contents: row `h` in `[0, 2M]`, column `n` in `[0, 1000)` (R101). -/
def phaseLut (num : Numerics) (m cp f : Nat) : List (List C32) :=
  (List.range (2 * m + 1)).map fun h => (List.range maxNumSymbols).map fun n => num.phaseTab h n m cp f

/-- `PHI(d, n)`: the phase function, or row `d + M`, column `n` of the LUT (R100, R102). -/
def phi (P : Params) (ae : AeUnit) (d : Int) (n : Nat) : C32 :=
  match ae.phaseSrc with
  | .direct => P.num.phase d n ae.cpLen ae.fftLen
  | .lut => nth P.noValue (nthInt [] (ae.lut.getD []) (d + ae.maxShift)) n

/-- The advance of `phase_count`: from 999 back to 1 (R105). -/
def advancePhase (n : Nat) : Nat := if n + 1 = maxNumSymbols then 1 else n + 1

end Sys2Proof.Machine
end

