-- ==== Sys2Proof/Machine/Acquisition.lean ====
section
/-! DEFINITION. The acquisition engine: coarse search, equalizer builder, data path, and the meanings of `AE.PRE` and `AE.DAT`
(41_acquisition.md). Every binary32 operation is a call of the numerics record, in the order the rules write it. -/

namespace Sys2Proof.Machine

/-! ### Coarse search (R111 to R116) -/

/-- `D[i]` for `i` in `[0, F-2)`, or `K[j]` for `j` in `[0, O-2)`: the squared magnitude of the difference of the samples two
apart (R111, R112). -/
def differential (P : Params) (len : Nat) (x : List C32) : List F32 :=
  (List.range (len - 2)).map fun i => P.num.cnorm2 (P.num.csub (nth P.noValue x i) (nth P.noValue x (i + 2)))

/-- `score(i)`: `K[j] * D[i+j]` summed in ascending `j` from `+0.0` (R113). -/
def score (P : Params) (ae : AeUnit) (d : List F32) (i : Nat) : F32 :=
  (List.range (ae.occ - 2)).foldl
    (fun acc j => P.num.fadd acc (P.num.fmul (nth P.noValue.re ae.kdiff j) (nth P.noValue.re d (i + j)))) F32.posZero

/-- The hypotheses `Z-M, .., Z+M-1` in ascending order (R114). -/
def searchWindow (ae : AeUnit) : List Nat := List.range' (ae.zerosLeft - ae.maxShift) (2 * ae.maxShift)

/-- The scored hypotheses of a symbol (R113, R114). -/
def scored (P : Params) (ae : AeUnit) (s0 : List C32) : List (Nat × F32) :=
  let d := differential P ae.fftLen s0
  (searchWindow ae).map fun i => (i, score P ae d i)

/-- The later hypothesis replaces the best one only if its score is greater (R115). -/
def better (num : Numerics) (best x : Nat × F32) : Nat × F32 := if num.fgt x.2 best.2 then x else best

/-- The first hypothesis of maximum score (R115). -/
def bestOf (num : Numerics) (lowest : Nat) : List (Nat × F32) → Nat
  | [] => lowest
  | x :: xs => (xs.foldl (better num) x).1

/-- Some score of the window is NaN, so that `i*` is drawn (R115). -/
def searchOpen (sc : List (Nat × F32)) : Bool := sc.any (fun x => isNaN x.2)

/-- `i*`: the selected hypothesis; drawn from the window when a score is NaN (R115). -/
def selected (P : Params) (ae : AeUnit) (sc : List (Nat × F32)) (draw : Nat) : Nat :=
  let lowest := ae.zerosLeft - ae.maxShift
  if searchOpen sc then lowest + P.drawHyp draw % (2 * ae.maxShift) else bestOf P.num lowest sc

/-! ### Equalizer (R117 to R119) -/

/-- `S[c][i + Z + coarse_freq]` (R15, R61). -/
def sample (P : Params) (ae : AeUnit) (t : Tuple) (c i : Nat) : C32 :=
  nthInt P.noValue (nth [] t c) ((i : Int) + ae.zerosLeft + ae.coarseFreq)

/-- The even tap: the known symbol divided by the de-rotated sample (R117). -/
def evenTap (P : Params) (ae : AeUnit) (t : Tuple) (c i : Nat) : C32 :=
  P.num.cdiv (nth P.noValue ae.ksym i) (P.num.cmul (phi P ae ae.coarseFreq 1) (sample P ae t c i))

/-- Tap `i` of antenna `c`: an even tap; the mean of its neighbours for an odd `i` with `i + 1 < O`; for the last tap of an
even `O` a copy of the one before (R117 to R119). -/
def tapOf (P : Params) (ae : AeUnit) (t : Tuple) (c i : Nat) : C32 :=
  if i % 2 = 0 then evenTap P ae t c i
  else if i + 1 < ae.occ then
    P.num.cdivr (P.num.cadd (evenTap P ae t c (i - 1)) (evenTap P ae t c (i + 1))) F32.two
  else evenTap P ae t c (i - 1)

/-- Every tap of every antenna (R117 to R119). -/
def allTaps (P : Params) (ae : AeUnit) (t : Tuple) : List (List C32) :=
  (List.range ae.nch).map fun c => (List.range ae.occ).map fun i => tapOf P ae t c i

/-- The preamble path of `AE.PRE` (R111 to R120): the coarse frequency, then the taps built with it, then the counters. -/
def preamblePath (P : Params) (t : Tuple) (draw : Nat) (ae : AeUnit) : AeUnit :=
  let i := selected P ae (scored P ae (nth [] t 0)) draw
  let ae1 := { ae with coarseFreq := (i : Int) - ae.zerosLeft }
  { ae1 with taps := allTaps P ae1 t, phaseCount := 1, calibrated := true }

/-- How many values the preamble path draws (R115). -/
def preambleDraws (P : Params) (t : Tuple) (ae : AeUnit) : Nat :=
  if searchOpen (scored P ae (nth [] t 0)) then 1 else 0

/-! ### Data path (R121 to R127) -/

/-- `H[c][i]` (R43). -/
def tap (P : Params) (ae : AeUnit) (c i : Nat) : C32 := nth2 P.noValue ae.taps c i

/-- Carrier `i`: the antennas in ascending order from the accumulators `acc` and `norm`, and the combination after the last;
the first tap whose magnitude is not finite and positive ends it (R122 to R126). -/
def combine (P : Params) (ae : AeUnit) (t : Tuple) (i : Nat) : List Nat → C32 → F32 → Except (Nat × Nat) C32
  | [], acc, norm => .ok (P.num.cdivr acc norm)
  | c :: cs, acc, norm =>
    let h := tap P ae c i
    let m := P.num.cabs h
    if P.num.finpos m then
      let rotated := P.num.cmul (P.num.cmul (P.num.cdivr h m) (phi P ae ae.coarseFreq ae.phaseCount)) (sample P ae t c i)
      combine P ae t i cs (P.num.cadd acc rotated) (P.num.fadd norm (P.num.fdiv F32.one m))
    else .error (i, c)

/-- The carriers in ascending order, each from cleared accumulators (R121). -/
def carriers (P : Params) (ae : AeUnit) (t : Tuple) : List Nat → Except (Nat × Nat) (List C32)
  | [] => .ok []
  | i :: is =>
    match combine P ae t i (List.range ae.nch) C32.zero F32.posZero with
    | .error tapAt => .error tapAt
    | .ok z =>
      match carriers P ae t is with
      | .error tapAt => .error tapAt
      | .ok zs => .ok (z :: zs)

/-- `DATAPATH(S)`: the output vector, or the first offending tap `(i, c)` (R121 to R126). -/
def dataPath (P : Params) (ae : AeUnit) (t : Tuple) : Except (Nat × Nat) (List C32) :=
  carriers P ae t (List.range ae.occ)

/-- The output vector of an uncalibrated data path, `O` drawn samples (R127). -/
def drawnVector (P : Params) (draw occ : Nat) : List C32 := (List.range occ).map fun i => P.drawC32 (draw + i)

/-! ### Completion (R128, R129) and the meanings -/

/-- Present the output tuple and advance `phase_count` (R129, R105). -/
def finishTuple (out : List C32) (flag : BitVec 8) (s : State) : State :=
  (s.withAe { s.ae with phaseCount := advancePhase s.ae.phaseCount }).presentAe (.tuple out flag)

/-- The data path on the state, and its completion or its `E_NUM` (R126, R129, R187). -/
def runDataPath (P : Params) (t : Tuple) (flag : BitVec 8) (s : State) : State :=
  match dataPath P s.ae t with
  | .ok out => finishTuple out flag s
  | .error (i, c) => raiseFault .ae .eNum (.tap i c) s

/-- The preamble path on the state (R111 to R120). -/
def runPreamble (P : Params) (t : Tuple) (s : State) : State :=
  (s.withAe (preamblePath P t s.aeDraws s.ae)).countAeDraws (preambleDraws P t s.ae)

/-- The checks of R110, and then `body` on the tuple. -/
def withTuple (tuple : Option Tuple) (s : State) (body : Tuple → State) : Host.Outcome State Fault Refusal :=
  match gate .ae false s with
  | some c => .refused (.rf c)
  | none =>
    match takeTuple s.ae tuple with
    | .error c => .refused (.rf c)
    | .ok t => .next (body t)

/-- `AE.PRE` (R130) under given parameters. -/
def aePre (P : Params) (tuple : Option Tuple) (s : State) : Host.Outcome State Fault Refusal :=
  withTuple tuple s fun t => runDataPath P t preambleFlag (runPreamble P t s)

/-- `AE.DAT` (R131) under given parameters: drawn outputs while the engine is uncalibrated (R127). -/
def aeDat (P : Params) (tuple : Option Tuple) (s : State) : Host.Outcome State Fault Refusal :=
  withTuple tuple s fun t =>
    if s.ae.calibrated then runDataPath P t dataFlag s
    else finishTuple (drawnVector P s.aeDraws s.ae.occ) dataFlag (s.countAeDraws s.ae.occ)

/-- `AE.PRE`: a preamble tuple. The nonzero value of the flag has no other effect (R83, R130). -/
def execAePre (_flag : BitVec 8) (tuple : Option Tuple) (s : State) : Host.Outcome State Fault Refusal :=
  aePre Config.params tuple s

/-- `AE.DAT`: a data tuple (R131). -/
def execAeDat (tuple : Option Tuple) (s : State) : Host.Outcome State Fault Refusal :=
  aeDat Config.params tuple s

end Sys2Proof.Machine
end

