-- ==== Sys2Proof/Machine/Configure.lean ====
section
/-! DEFINITION. The configuration operations, which are the only reset: the meanings of `AE.CFG` and `HP.CFG`
(44_configure.md). -/

namespace Sys2Proof.Machine

/-- The number of the first check of a table that does not hold; checks are numbered from `q`. -/
def firstFailing (q : Nat) : List Bool → Option Nat
  | [] => none
  | true :: cs => firstFailing (q + 1) cs
  | false :: _ => some q

/-! ### Acquisition engine -/

/-- `Z = ceil((F - O) / 2)` (R36). -/
def zerosOf (f o : Nat) : Nat := (f - o + 1) / 2

/-- The known symbol stored: the first `O` entries (R28). -/
def storedKsym (o : AeCfgOperand) : List C32 := o.ksym.take o.occ

/-- `K` of a candidate known symbol (R112, R175). -/
def knownDifferential (P : Params) (o : AeCfgOperand) : List F32 := differential P o.occ (storedKsym o)

/-- Check 7: every even entry below `O` is nonzero (R176, R28). -/
def evenTapsNonzero (ksym : List C32) (occ : Nat) : Bool :=
  (List.range occ).all fun i => i % 2 != 0 || !isZeroC (nth C32.zero ksym i)

/-- The checks of `AE.CFG` in table order (R176). -/
def aeChecks (P : Params) (o : AeCfgOperand) : List Bool := [
  1 ≤ o.nch,
  1 ≤ o.occ,
  o.occ < o.fftLen,
  o.occ ≤ o.ksym.length,
  1 ≤ o.maxShift,
  2 * o.maxShift ≤ zerosOf o.fftLen o.occ,
  evenTapsNonzero o.ksym o.occ,
  o.nch ≤ P.nMax && o.fftLen ≤ P.fMax && o.occ ≤ P.oMax && o.maxShift ≤ P.mMax && o.cpLen ≤ P.cpMax,
  (knownDifferential P o).all fun k => isZero k || P.num.finpos k ]

/-- The engine after a successful configuration: every register loaded or computed, every other state at its reset value
(R175, R180). -/
def configuredAe (P : Params) (o : AeCfgOperand) (ae : AeUnit) : AeUnit where
  nch := o.nch
  fftLen := o.fftLen
  occ := o.occ
  cpLen := o.cpLen
  maxShift := o.maxShift
  ksym := storedKsym o
  phaseSrc := o.phaseSrc
  zerosLeft := zerosOf o.fftLen o.occ
  kdiff := knownDifferential P o
  lut :=
    match o.phaseSrc with
    | .direct => none
    | .lut => some (phaseLut P.num o.maxShift o.cpLen o.fftLen)
  coarseFreq := 0
  phaseCount := 1
  taps := []
  calibrated := false
  cfg := true
  fault := ae.fault

/-- A failed check of `AE.CFG`: `ae_cfg` 0 and the fault `E_CFG(q)` (R182, R186). -/
def failAeCfg (q : Nat) (s : State) : State :=
  raiseFault .ae .eCfg (.check q) (s.withAe { s.ae with cfg := false })

/-- `AE.CFG` on an operand that holds its format (R175). -/
def runAeCfg (P : Params) (o : AeCfgOperand) (s : State) : State :=
  match firstFailing 1 (aeChecks P o) with
  | some q => failAeCfg q s
  | none => (s.withAe (configuredAe P o s.ae)).presentAe .idle

/-- `AE.CFG` (R175) under given parameters. -/
def aeCfg (P : Params) (cfg : Option AeCfgOperand) (s : State) : Host.Outcome State Fault Refusal :=
  match gate .ae true s with
  | some c => .refused (.rf c)
  | none =>
    match cfg with
    | none => .refused (.rf .badOperand)
    | some o => .next (runAeCfg P o s)

/-- `AE.CFG`: configure and reset the acquisition engine (R175). -/
def execAeCfg (cfg : Option AeCfgOperand) (s : State) : Host.Outcome State Fault Refusal := aeCfg Config.params cfg s

/-! ### Header parser/codec -/

/-- The variant of a `VARIANT` operand; 2 and 3 name none the source defines (R30, R179). -/
def variantOf (v : BitVec 2) : Option Variant :=
  if v = 0#2 then some .default else if v = 1#2 then some .counter else none

/-- The checks of `HP.CFG` in table order (R178). -/
def hpChecks (o : HpCfgOperand) : List Bool := [
  o.acLen % 8 = 0,
  8 ≤ o.acLen && o.acLen ≤ 64,
  o.thresh ≤ 64,
  o.bpsInit < 2 ^ 16 ]

/-- The unit after a successful configuration (R177, R180). -/
def configuredHp (v : Variant) (o : HpCfgOperand) (hp : HpUnit) : HpUnit where
  variant := v
  acLen := BitVec.ofNat 7 o.acLen
  acode := o.pattern &&& maskOf o.acLen
  thresh := BitVec.ofNat 7 o.thresh
  bpsInit := BitVec.ofNat 16 o.bpsInit
  scramble := false
  mask := maskOf o.acLen
  hdrNbits := o.acLen + 16 * fieldCount v
  hdrNbytes := o.acLen / 8 + 2 * fieldCount v
  hdrBody := 16 * fieldCount v
  state := .search
  sreg := 0#64
  hreg := 0#64
  hcount := 0
  count := 0#64
  bps := BitVec.ofNat 16 o.bpsInit
  counter := 0#16
  cfg := true
  fault := hp.fault

/-- A failed check of `HP.CFG`: `hp_cfg` 0 and the fault `E_CFG(q)` (R182, R186). -/
def failHpCfg (q : Nat) (s : State) : State :=
  raiseFault .hp .eCfg (.check q) (s.withHp { s.hp with cfg := false })

/-- `HP.CFG` on an operand that names a variant the source defines (R177). -/
def runHpCfg (v : Variant) (o : HpCfgOperand) (s : State) : State :=
  match firstFailing 1 (hpChecks o) with
  | some q => failHpCfg q s
  | none => (s.withHp (configuredHp v o s.hp)).presentHp .idle

/-- The variant an operand asks for, or the refusal `RF_UNSUPPORTED`: `VARIANT` 2 or 3, or scrambling (R179). -/
def supportedVariant (o : HpCfgOperand) : Option Variant := if o.scramble then none else variantOf o.variant

/-- `HP.CFG`: configure and reset the header parser/codec (R177). -/
def execHpCfg (cfg : Option HpCfgOperand) (s : State) : Host.Outcome State Fault Refusal :=
  match gate .hp true s with
  | some c => .refused (.rf c)
  | none =>
    match cfg with
    | none => .refused (.rf .badOperand)
    | some o =>
      match supportedVariant o with
      | none => .refused (.rf .unsupported)
      | some v => .next (runHpCfg v o s)

end Sys2Proof.Machine
end

