-- ==== Sys2Proof/Machine/Format.lean ====
section
/-! DEFINITION. The header formatter and the size queries: the meanings of `HP.FMT`, `HP.QNBITS` and `HP.QNBYTES`
(43_header_format.md). -/

namespace Sys2Proof.Machine

/-- The access-code bytes: byte `t` is `ACODE[L_ac-1-8t : L_ac-8-8t]` (R165). -/
def codeBytes (acLen : Nat) (acode : BitVec 64) : List (BitVec 8) :=
  (List.range (acLen / 8)).map fun t => acode.extractLsb' (acLen - 8 - 8 * t) 8

/-- `len16`: the length modulo 2^16 (R166). -/
def len16 (nbytes : BitVec 32) : BitVec 16 := nbytes.setWidth 16

/-- The header bytes of the configured variant (R92, R93, R167). -/
def headerBytes (u : HpUnit) (nbytes : BitVec 32) : List (BitVec 8) :=
  let base := codeBytes u.acLen.toNat u.acode ++ fieldBytes (len16 nbytes) ++ fieldBytes (len16 nbytes)
  match u.variant with
  | .default => base
  | .counter => base ++ fieldBytes u.bps ++ fieldBytes u.counter

/-- The counter update of a format request: the counter variant counts, modulo 2^16 (R168). -/
def countFormat (u : HpUnit) : HpUnit :=
  match u.variant with
  | .default => u
  | .counter => { u with counter := u.counter + 1#16 }

/-- `HP.FMT` on the state (R167): the header with the counter as it was, success, and the counter's update. -/
def runFormat (nbytes : BitVec 32) (s : State) : State :=
  (s.withHp (countFormat s.hp)).presentHp (.hdr (headerBytes s.hp nbytes) true)

/-- `HP.FMT`: a format request (R167, R174). -/
def execHpFmt (nbytes : Option (BitVec 32)) (s : State) : Host.Outcome State Fault Refusal :=
  match gate .hp false s with
  | some c => .refused (.rf c)
  | none =>
    match nbytes with
    | none => .refused (.rf .badOperand)
    | some n => .next (runFormat n s)

/-- A size query presents a size and writes no state of the unit (R74, R169, R170). -/
def presentSize (size : HpUnit → Nat) (s : State) : Host.Outcome State Fault Refusal :=
  match gate .hp false s with
  | some c => .refused (.rf c)
  | none => .next (s.presentHp (.size (size s.hp)))

/-- `HP.QNBITS`: header size in bits (R169). -/
def execHpQnbits (s : State) : Host.Outcome State Fault Refusal := presentSize HpUnit.hdrNbits s

/-- `HP.QNBYTES`: header size in bytes (R170). -/
def execHpQnbytes (s : State) : Host.Outcome State Fault Refusal := presentSize HpUnit.hdrNbytes s

end Sys2Proof.Machine
end

