-- ==== Sys2Proof/Machine/Parser.lean ====
section
/-! DEFINITION. The header parser: bit counter, correlator, header state machine, field decoder, and the meanings of `HP.BIT`
and `HP.SOFT` (42_header_parser.md). -/

namespace Sys2Proof.Machine

/-- A shift register takes a bit: left by one, the bit into bit 0 (R137, R140). -/
def shiftIn (v : BitVec 64) (b : Bool) : BitVec 64 := (v <<< 1) ||| BitVec.ofNat 64 b.toNat

/-- `STEP(b)` in `SEARCH`, after the bit counter: the correlator shifts, and on a match the machine enters `HEADER`
(R137 to R139). -/
def searchStep (b : Bool) (u : HpUnit) : HpUnit :=
  let sreg := shiftIn u.sreg b
  let u := { u with sreg := sreg }
  if codeMatches u.acode u.mask u.thresh sreg then { u with state := .header, hreg := 0#64, hcount := 0 } else u

/-- The descriptor of a good header: `skip_samps` is the bit counter at header completion (R144 to R146). -/
def descriptor (u : HpUnit) : Desc :=
  let bits := 8#32 * (headerLen u.variant u.hreg).setWidth 32
  match u.variant with
  | .default => .default u.count bits
  | .counter => .counter u.count bits (headerBps u.hreg) (headerCounter u.hreg)

/-- The field decode of a good header writes `bps` in the counter variant only (R145). -/
def decodeFields (u : HpUnit) : HpUnit :=
  match u.variant with
  | .default => u
  | .counter => { u with bps := headerBps u.hreg }

/-- The return to `SEARCH` (R147): `hreg` keeps its value, `sreg` is held or cleared as `P_SREG_ON_RETURN` says. -/
def returnToSearch (P : Params) (u : HpUnit) : HpUnit :=
  let u := { u with state := .search, hcount := 0 }
  match P.sregOnReturn with
  | .hold => u
  | .clear => { u with sreg := 0#64 }

/-- Header completion: a good header is decoded and described, a bad one dropped without a trace; both return to `SEARCH`
(R141 to R148). -/
def completeHeader (P : Params) (u : HpUnit) : HpUnit × Option Desc :=
  if headerOk u.variant u.hreg then (returnToSearch P (decodeFields u), some (descriptor u))
  else (returnToSearch P u, none)

/-- `STEP(b)` in `HEADER`, after the bit counter (R140, R141). -/
def headerStep (P : Params) (b : Bool) (u : HpUnit) : HpUnit × Option Desc :=
  let u := { u with hreg := shiftIn u.hreg b, hcount := u.hcount + 1 }
  if u.hcount = u.hdrBody then completeHeader P u else (u, none)

/-- `STEP(b)`: the bit counter first, then the state's own step (R136 to R149). -/
def stepBit (P : Params) (b : Bool) (u : HpUnit) : HpUnit × Option Desc :=
  let u := { u with count := u.count + 1#64 }
  match u.state with
  | .search => (searchStep b u, none)
  | .header => headerStep P b u

/-- What the port presents after a bit: the descriptor the bit made, if it made one (R55). -/
def descOut : Option Desc → HpOut
  | some d => .desc d
  | none => .idle

/-- `STEP(b)` on the state. -/
def runBit (P : Params) (b : Bool) (s : State) : State :=
  (s.withHp (stepBit P b s.hp).1).presentHp (descOut (stepBit P b s.hp).2)

/-- `HP.BIT` (R151) under given parameters. -/
def hpBit (P : Params) (b : Bool) (s : State) : Host.Outcome State Fault Refusal :=
  match gate .hp false s with
  | some c => .refused (.rf c)
  | none => .next (runBit P b s)

/-- `HP.SOFT` (R152) under given parameters: the sample is sliced and stepped; a sample that decides no bit draws one. -/
def hpSoft (P : Params) (x : Option F32) (s : State) : Host.Outcome State Fault Refusal :=
  match gate .hp false s with
  | some c => .refused (.rf c)
  | none =>
    match x with
    | none => .refused (.rf .badOperand)
    | some x =>
      .next (runBit P (slice P.num (P.drawBit s.hpDraws) x) (s.countHpDraws (if sliceOpen x then 1 else 0)))

/-- `HP.BIT`: one hard-decided bit (R151). -/
def execHpBit (b : Bool) (s : State) : Host.Outcome State Fault Refusal := hpBit Config.params b s

/-- `HP.SOFT`: one soft-decided sample (R152). -/
def execHpSoft (x : Option F32) (s : State) : Host.Outcome State Fault Refusal := hpSoft Config.params x s

end Sys2Proof.Machine
end

