-- ==== Sys2Proof/Machine/Dispatch.lean ====
section
/-! DEFINITION. The meaning of every operation, one arm per constructor (R81). -/

namespace Sys2Proof.Machine

/-- What an operation does in a state. -/
def exec (i : Instr) (s : State) : Host.Outcome State Fault Refusal :=
  match i with
  | .aeCfg cfg => Sys2Proof.Machine.execAeCfg cfg s
  | .aeDat tuple => Sys2Proof.Machine.execAeDat tuple s
  | .aePre flag tuple => Sys2Proof.Machine.execAePre flag tuple s
  | .hpBit b => Sys2Proof.Machine.execHpBit b s
  | .hpSoft x => Sys2Proof.Machine.execHpSoft x s
  | .hpFmt nbytes => Sys2Proof.Machine.execHpFmt nbytes s
  | .hpQnbits => Sys2Proof.Machine.execHpQnbits s
  | .hpQnbytes => Sys2Proof.Machine.execHpQnbytes s
  | .hpCfg cfg => Sys2Proof.Machine.execHpCfg cfg s

end Sys2Proof.Machine
end

