-- ==== Sys2Proof/Machine/Present.lean ====
section
/-! DEFINITION. The host interface: taking the next presented operation, reporting a refusal, presenting operations, and the
pseudo-operations (R80, R192, R193, R99). -/

namespace Sys2Proof.Machine

/-- The state an operation runs in: it has left the queue, and nothing of the operation before it is presented any longer
(R193: an output stands with the operation that makes it). -/
def State.taken (s : State) (rest : List RawOp) : State :=
  { s with pending := rest, report := none, aePort := .idle, hpPort := .idle }

/-- A refusal of the spec: no step of the unit, no state changed, no output, the code reported to the host; the next
operation is decoded normally (R192). -/
def State.refuse (s : State) (c : RfCode) : State := { s with report := some c }

/-- The outcome of an operation as the host sees it: a refusal of the spec is reported and the machine goes on (R192). -/
def settle (s : State) : Host.Outcome State Fault Refusal → Host.Outcome State Fault Refusal
  | .next t => .next t
  | .fault f => .fault f
  | .refused (.rf c) => .next (s.refuse c)
  | .refused r => .refused r

/-- The host presents one more operation, after those already presented (R75, R80). -/
def State.presented (s : State) (op : RawOp) : State := { s with pending := s.pending ++ [op] }

/-- The host puts an operation before those already presented. -/
def State.presentedFirst (s : State) (op : RawOp) : State := { s with pending := op :: s.pending }

/-- The pseudo-operations (R99). -/
inductive Pseudo where
  | parse (bits : List Bool)
  | parseSoft (xs : List F32)
  | parseBytes (bytes : List (BitVec 8))
  | work (flag : BitVec 8) (t : Tuple)
deriving DecidableEq, Repr

/-- The expansion of a pseudo-operation, done before stepping (R99). -/
def Pseudo.expand : Pseudo → List Instr
  | .parse bits => bits.map .hpBit
  | .parseSoft xs => xs.map fun x => .hpSoft (some x)
  | .parseBytes bytes => (bytesBits bytes).map .hpBit
  | .work flag t => if flag = 0#8 then [.aeDat (some t)] else [.aePre flag (some t)]

/-- The host presents a pseudo-operation: every operation of its expansion, in order (R99). -/
def State.presentedPseudo (s : State) (p : Pseudo) : State := { s with pending := s.pending ++ p.expand.map encode }

end Sys2Proof.Machine
end

