-- ==== Sys2Proof/Machine/Step.lean ====
section
/-! DEFINITION. One step of the machine: the next operation presented is decoded and runs to its end (R73, R75, R80). There is
no program counter and no fetch (R21). -/

namespace Sys2Proof.Machine

/-- One step. With no operation presented nothing happens (R200); a selector that selects no row is refused with
`RF_RESERVED` (R97); otherwise the operation runs. -/
def step (s : State) : Host.Outcome State Fault Refusal :=
  match s.pending with
  | [] => .next s
  | op :: rest =>
    match decode op with
    | .error _ => .next ((s.taken rest).refuse .reserved)
    | .ok i => settle (s.taken rest) (exec i (s.taken rest))

/-- The operation of a table word, presented so that the next step takes it. A tuple of zero samples has the shape the
engine is configured for (none for an unconfigured engine). -/
def State.withFetchWord (s : State) (nbits w : Nat) : State :=
  s.presentedFirst (tableOp s.ae.nch s.ae.fftLen nbits w)

end Sys2Proof.Machine
end

