-- ==== Sys2Proof/Machine/Run.lean ====
section
/-! DEFINITION. Runs: operations one after another, and the results they present in order (R75, R99, R224). -/

namespace Sys2Proof.Machine

/-- The operations of a list in order, as long as none is refused; `none` when one is. -/
def execAll : List Instr → State → Option State
  | [], s => some s
  | i :: is, s =>
    match exec i s with
    | .next t => execAll is t
    | .fault _ => none
    | .refused _ => none

/-- The descriptor presented, if one is. -/
def HpOut.descs : HpOut → List Desc
  | .idle => []
  | .desc d => [d]
  | .hdr _ _ => []
  | .size _ => []
  | .fault _ => []

/-- The operations of a list in order with the descriptors they emit, in order: the result of a parse pseudo-operation
(R99). -/
def execDescs : List Instr → State → Option (State × List Desc)
  | [], s => some (s, [])
  | i :: is, s =>
    match exec i s with
    | .next t => (execDescs is t).map fun r => (r.1, t.hpPort.descs ++ r.2)
    | .fault _ => none
    | .refused _ => none

end Sys2Proof.Machine
end

