-- ==== Sys2Proof/Safety.lean ====
section
/-! DEFINITION. What holds of the machine after every step, in the spec's words: the legal values of every register of a
configured unit (10_state.md), the accumulator's range (R106) and the header machine's invariants (R158). -/

namespace Sys2Proof.Machine

/-- Unit `AE` holds a legal configuration, what `AE.CFG` derives from it, and engine state in its legal range. -/
structure AeUnit.Configured (P : Params) (u : AeUnit) : Prop where
  /-- R23 -/
  nch_pos : 1 ≤ u.nch
  /-- R25 -/
  occ_pos : 1 ≤ u.occ
  /-- R24 -/
  occ_lt : u.occ < u.fftLen
  /-- R27 -/
  shift_pos : 1 ≤ u.maxShift
  /-- R27 -/
  shift_le : 2 * u.maxShift ≤ u.zerosLeft
  /-- R36 -/
  zeros : u.zerosLeft = zerosOf u.fftLen u.occ
  /-- R23 to R27, check 8 of R176 -/
  sizes : u.nch ≤ P.nMax ∧ u.fftLen ≤ P.fMax ∧ u.occ ≤ P.oMax ∧ u.maxShift ≤ P.mMax ∧ u.cpLen ≤ P.cpMax
  /-- R28 -/
  ksym_length : u.ksym.length = u.occ
  /-- R28 -/
  ksym_even : evenTapsNonzero u.ksym u.occ = true
  /-- R37, R112 -/
  kdiff_eq : u.kdiff = differential P u.occ u.ksym
  /-- R38, R101 -/
  lut_eq : u.lut = match u.phaseSrc with
    | .direct => none
    | .lut => some (phaseLut P.num u.maxShift u.cpLen u.fftLen)
  /-- R41 -/
  coarse_range : -(u.maxShift : Int) ≤ u.coarseFreq ∧ u.coarseFreq < u.maxShift
  /-- R43, R119: after calibration every tap is written -/
  taps_shape : u.calibrated = true → u.taps.length = u.nch ∧ ∀ row ∈ u.taps, row.length = u.occ
  /-- R43, R44: before it none is -/
  taps_unwritten : u.calibrated = false → u.taps = []

/-- The invariant of unit `AE`. -/
structure AeUnit.Inv (P : Params) (u : AeUnit) : Prop where
  /-- R106 -/
  phase_range : 1 ≤ u.phaseCount ∧ u.phaseCount < maxNumSymbols
  configured : u.cfg = true → u.Configured P
  /-- R182: a failed configuration leaves the unit unconfigured -/
  failed : u.fault = .eCfg → u.cfg = false
  /-- R187: the numeric edge is raised by a calibrated engine only -/
  numeric : u.fault = .eNum → u.cfg = true ∧ u.calibrated = true

/-- Unit `HP` holds a legal configuration and what `HP.CFG` derives from it. -/
structure HpUnit.Configured (u : HpUnit) : Prop where
  /-- R31 -/
  len_mult : u.acLen.toNat % 8 = 0
  /-- R31 -/
  len_range : 8 ≤ u.acLen.toNat ∧ u.acLen.toNat ≤ 64
  /-- R33 -/
  thresh_le : u.thresh.toNat ≤ 64
  /-- R35 -/
  scramble_off : u.scramble = false
  /-- R39 -/
  mask_eq : u.mask = maskOf u.acLen.toNat
  /-- R32 -/
  acode_masked : u.acode &&& u.mask = u.acode
  /-- R40 -/
  nbits_eq : u.hdrNbits = u.acLen.toNat + 16 * fieldCount u.variant
  /-- R40 -/
  nbytes_eq : u.hdrNbytes = u.acLen.toNat / 8 + 2 * fieldCount u.variant
  /-- R40 -/
  body_eq : u.hdrBody = 16 * fieldCount u.variant

/-- The invariant of unit `HP`. -/
structure HpUnit.Inv (u : HpUnit) : Prop where
  /-- R158 -/
  search_count : u.state = .search → u.hcount = 0
  /-- R158 -/
  header_count : u.state = .header → u.hcount < u.hdrBody
  /-- R94: the bits of `hreg` above the body bits received are zero -/
  header_bits : u.state = .header → u.hreg.toNat < 2 ^ u.hcount
  configured : u.cfg = true → u.Configured
  /-- R53: `hp_fault` is NONE or E_CFG -/
  fault_legal : u.fault ≠ .eNum
  /-- R182 -/
  failed : u.fault = .eCfg → u.cfg = false

/-- The invariant of the machine. -/
def State.Inv (P : Params) (s : State) : Prop := s.ae.Inv P ∧ s.hp.Inv

/-- A step that goes on: the machine neither stops with a fault nor refuses to run. -/
def State.goesOn (s : State) : Prop := ∃ t, step s = .next t

/-! ### The words the statements use -/

/-- Unit `AE` is configured and not halted: it admits every operation (R110). -/
def State.aeReady (s : State) : Prop := s.ae.fault = .none ∧ s.ae.cfg = true

/-- Unit `HP` is configured and not halted: it admits every operation (R135). -/
def State.hpReady (s : State) : Prop := s.hp.fault = .none ∧ s.hp.cfg = true

/-- A tuple of `N` symbols of `F` samples (R82). -/
def FitsEngine (ae : AeUnit) (t : Tuple) : Prop := t.length = ae.nch ∧ ∀ sym ∈ t, sym.length = ae.fftLen

/-- Check `q` of `AE.CFG` as the table of R176 words it. -/
def AeCheckHolds (P : Params) (o : AeCfgOperand) : Nat → Prop
  | 1 => 1 ≤ o.nch
  | 2 => 1 ≤ o.occ
  | 3 => o.occ < o.fftLen
  | 4 => o.occ ≤ o.ksym.length
  | 5 => 1 ≤ o.maxShift
  | 6 => 2 * o.maxShift ≤ (o.fftLen - o.occ + 1) / 2
  | 7 => ∀ i z, i < o.occ → i % 2 = 0 → o.ksym[i]? = some z → isZeroC z = false
  | 8 => o.nch ≤ P.nMax ∧ o.fftLen ≤ P.fMax ∧ o.occ ≤ P.oMax ∧ o.maxShift ≤ P.mMax ∧ o.cpLen ≤ P.cpMax
  | 9 => ∀ j x y, j + 2 < o.occ → o.ksym[j]? = some x → o.ksym[j + 2]? = some y →
      isZero (P.num.cnorm2 (P.num.csub x y)) = true ∨ P.num.finpos (P.num.cnorm2 (P.num.csub x y)) = true
  | _ => True

/-- Check `q` of `HP.CFG` as the table of R178 words it. -/
def HpCheckHolds (o : HpCfgOperand) : Nat → Prop
  | 1 => o.acLen % 8 = 0
  | 2 => 8 ≤ o.acLen ∧ o.acLen ≤ 64
  | 3 => o.thresh ≤ 64
  | 4 => o.bpsInit < 2 ^ 16
  | _ => True

/-- Every tap of the engine has a finite and positive magnitude: no numeric edge (R126). -/
def NoNumericEdge (P : Params) (ae : AeUnit) : Prop :=
  ∀ i c, i < ae.occ → c < ae.nch → P.num.finpos (P.num.cabs (tap P ae c i)) = true

/-- `(i, c)` is the first tap without one, carriers ascending and then antennas ascending (R126). -/
def FirstNumericEdge (P : Params) (ae : AeUnit) (i c : Nat) : Prop :=
  i < ae.occ ∧ c < ae.nch ∧ P.num.finpos (P.num.cabs (tap P ae c i)) = false ∧
    ∀ i' c', i' < ae.occ → c' < ae.nch → (i' < i ∨ (i' = i ∧ c' < c)) →
      P.num.finpos (P.num.cabs (tap P ae c' i')) = true

/-- The accumulator `acc` of carrier `i` after the last antenna (R121 to R123). -/
def carrierSum (P : Params) (ae : AeUnit) (t : Tuple) (i : Nat) : C32 :=
  (List.range ae.nch).foldl (fun acc c =>
    P.num.cadd acc (P.num.cmul
      (P.num.cmul (P.num.cdivr (tap P ae c i) (P.num.cabs (tap P ae c i))) (phi P ae ae.coarseFreq ae.phaseCount))
      (sample P ae t c i))) C32.zero

/-- The accumulator `norm` of carrier `i` after the last antenna (R121, R124). -/
def carrierNorm (P : Params) (ae : AeUnit) (i : Nat) : F32 :=
  (List.range ae.nch).foldl (fun norm c => P.num.fadd norm (P.num.fdiv F32.one (P.num.cabs (tap P ae c i))))
    F32.posZero

/-- The combined output vector (R125). -/
def combinedOutput (P : Params) (ae : AeUnit) (t : Tuple) : List C32 :=
  (List.range ae.occ).map fun i => P.num.cdivr (carrierSum P ae t i) (carrierNorm P ae i)

/-- The Hamming distance between the low `L_ac` bits of a register and the access code (R138, R160). -/
def hammingDistance (u : HpUnit) (sreg : BitVec 64) : Nat :=
  ((Finset.range u.acLen.toNat).filter fun i => sreg.getLsbD i ≠ u.acode.getLsbD i).card

/-- `NUM.fgt` orders the values that are not NaN: a hypothesis a claim about the search may make (R16). -/
def OrdersScores (num : Numerics) : Prop :=
  (∀ a b, isNaN a = false → isNaN b = false → num.fgt a b = true → num.fgt b a = false) ∧
  (∀ a b c, isNaN a = false → isNaN b = false → isNaN c = false →
    num.fgt a b = false → num.fgt b c = false → num.fgt a c = false)

end Sys2Proof.Machine
end

