-- ==== Sys2Proof/Certificates/Slice0/Obligations.lean ====
section
/-! DEFINITION. The statements for the provers. Each says what a numbered rule of the spec says an operation or the machine
does; a statement that rests on a choice of the model names the log entry. -/

open Sys2Proof Sys2Proof.Machine

/-! ### Decoding and encoding -/

/-- R81: the operation of a few selector words written out bit by bit, with their payloads. -/
def Obligations.SelectorWordsDecode : Prop :=
  decode ⟨0b000000000000#12, [[1, 4, 1, 0, 1, 1, 1, 0x3F800000]]⟩ =
      .ok (.aeCfg (some { nch := 1, fftLen := 4, occ := 1, cpLen := 0, maxShift := 1, phaseSrc := .lut,
                          ksym := [⟨F32.one, F32.posZero⟩] })) ∧
  decode ⟨0b000100000000#12, [[0x3F80000040000000]]⟩ = .ok (.aeDat (some [[⟨F32.two, F32.one⟩]])) ∧
  decode ⟨0b000110100101#12, []⟩ = .ok (.aePre 0xA5#8 (some [])) ∧
  decode ⟨0b001000000001#12, []⟩ = .ok (.hpBit true) ∧
  decode ⟨0b001100000000#12, [[0x80000000]]⟩ = .ok (.hpSoft (some F32.negZero)) ∧
  decode ⟨0b010000000000#12, [[4800]]⟩ = .ok (.hpFmt (some 4800#32)) ∧
  decode ⟨0b010100000000#12, []⟩ = .ok .hpQnbits ∧
  decode ⟨0b010100000001#12, []⟩ = .ok .hpQnbytes ∧
  decode ⟨0b011000000000#12, [[1, 16, 0xAAAA, 2, 7, 0]]⟩ =
      .ok (.hpCfg (some { variant := 1#2, acLen := 16, pattern := 0xAAAA#64, thresh := 2, bpsInit := 7,
                          scramble := false }))

/-- R81, R82, R85, R86, R88: every well-formed operation, with every operand, is read back from what the encoder writes. -/
def Obligations.DecodeEncodeRoundTrip : Prop :=
  ∀ i : Instr, i.wellFormed = true → decode (encode i) = .ok i

/-- R97: the selector values the decoder rejects are exactly the reserved ones, whatever the payload; an operation with one
changes no unit, presents nothing and is reported as `RF_RESERVED`. -/
def Obligations.ReservedSelectorsAreRefused : Prop :=
  ∀ (sel : BitVec 12) (payload : List (List Nat)),
    let port := sel.toNat / 256
    let sub := sel.toNat % 256
    let reserved := 7 ≤ port ∨ (sub ≠ 0 ∧ (port = 0 ∨ port = 3 ∨ port = 4 ∨ port = 6)) ∨ (port = 2 ∧ 2 ≤ sub) ∨
      (port = 5 ∧ 2 ≤ sub)
    ((∃ e, decode ⟨sel, payload⟩ = .error e) ↔ reserved) ∧
    ∀ (s : State) (rest : List RawOp), s.pending = ⟨sel, payload⟩ :: rest → reserved →
      step s = .next { s with pending := rest, report := some .reserved, aePort := .idle, hpPort := .idle }

/-- R83: every nonzero flag byte selects `AE.PRE`, `0x00` selects `AE.DAT`, and the operation reads the same tuple; all
nonzero values then do the same in every state. -/
def Obligations.FlagByteSelectsTuplePath : Prop :=
  ∀ (flag : BitVec 8) (payload : List (List Nat)),
    decode ⟨0x1#4 ++ flag, payload⟩ =
        .ok (if flag = 0#8 then .aeDat (readTuple payload) else .aePre flag (readTuple payload)) ∧
    ∀ (flag' : BitVec 8) (s : State),
      exec (.aePre flag (readTuple payload)) s = exec (.aePre flag' (readTuple payload)) s

/-- R96, R177: a bit string names the code whose bit `L-1` is its leftmost character, and configures what the pattern form of
the same code configures; bits of a pattern at or above `L_ac` have no effect. -/
def Obligations.BitStringNamesTheSameCode : Prop :=
  ∀ (v : BitVec 2) (bits : List Bool) (pattern : BitVec 64) (th b : Nat) (scr : Bool) (s : State),
    (∀ t, t < bits.length → pattern.getLsbD (bits.length - 1 - t) = bits.getD t false) →
    exec (.hpCfg (some (hpCfgOfBits v bits th b scr))) s =
      exec (.hpCfg (some { variant := v, acLen := bits.length, pattern := pattern, thresh := th, bpsInit := b,
                           scramble := scr })) s

/-! ### The step -/

/-- R75, R80, R192: the next step takes the first operation presented, decodes it and runs it in the state without it and
with nothing presented; a next state stands, a refusal of the spec changes nothing else and is reported. -/
def Obligations.StepRunsDecodedOperation : Prop :=
  ∀ (s : State) (op : RawOp) (rest : List RawOp) (i : Instr), s.pending = op :: rest → decode op = .ok i →
    let s0 := { s with pending := rest, report := none, aePort := .idle, hpPort := .idle }
    (∀ t, exec i s0 = .next t → step s = .next t) ∧
    (∀ c, exec i s0 = .refused (.rf c) → step s = .next { s0 with report := some c })

/-- R192, R188: no operation ever stops the machine: whatever is presented in whatever state, the step answers a next state,
with one operation fewer presented. -/
def Obligations.EveryStepGoesOn : Prop :=
  ∀ s : State, ∃ t, step s = .next t ∧ t.pending = s.pending.tail

/-! ### The invariant -/

/-- Legal registers (R23 to R53), the accumulator's range (R106) and the header machine's invariants (R158), from every state
that has them. What it says of an engine halted by `E_NUM` is the model's choice (log 12). -/
def Obligations.EveryStepKeepsLegalState : Prop :=
  ∀ s t : State, s.Inv Config.params → step s = .next t → t.Inv Config.params

/-- The power-on state has them. -/
def Obligations.PowerOnStateIsLegal : Prop := State.reset.Inv Config.params

/-- R205, R45, R53: a new instance has `cfg = 0` and fault `NONE` in each unit. -/
def Obligations.PowerOnUnitsAreUnconfigured : Prop :=
  State.reset.ae.cfg = false ∧ State.reset.ae.fault = .none ∧ State.reset.hp.cfg = false ∧
    State.reset.hp.fault = .none

/-! ### Refusals -/

/-- R192, R45, R53: every operation of a halted unit, its configuration operation included, is refused with `RF_HALTED`. -/
def Obligations.HaltedUnitRefusesEveryOperation : Prop :=
  ∀ (i : Instr) (s : State), s.unitFault i.kind.unit ≠ .none → exec i s = .refused (.rf .halted)

/-- R192, R22: before its configuration a unit refuses everything but the configuration operation with `RF_UNCONFIGURED`. -/
def Obligations.UnconfiguredUnitRefusesOperations : Prop :=
  ∀ (i : Instr) (s : State), s.unitFault i.kind.unit = .none → s.unitCfg i.kind.unit = false →
    i.kind ≠ .aeCfg → i.kind ≠ .hpCfg → exec i s = .refused (.rf .unconfigured)

/-- R192, R194: an operand payload that does not hold its format is refused with `RF_BADOPERAND`, once the unit is not halted
and, but for a configuration operation, is configured. -/
def Obligations.MalformedOperandIsRefused : Prop :=
  ∀ (i : Instr) (s : State), i.operandsPresent = false → s.unitFault i.kind.unit = .none →
    (s.unitCfg i.kind.unit = true ∨ i.kind = .aeCfg ∨ i.kind = .hpCfg) → exec i s = .refused (.rf .badOperand)

/-- R82, R110: a tuple with a number of symbols other than `N`, or a symbol with a number of samples other than `F`, is
refused with `RF_BADOPERAND`, by both tuple operations. -/
def Obligations.TupleOfAnotherShapeIsRefused : Prop :=
  ∀ (t : Tuple) (flag : BitVec 8) (s : State), s.aeReady →
    (t.length ≠ s.ae.nch ∨ ∃ sym ∈ t, sym.length ≠ s.ae.fftLen) →
    exec (.aeDat (some t)) s = .refused (.rf .badOperand) ∧
      exec (.aePre flag (some t)) s = .refused (.rf .badOperand)

/-- R179: a `VARIANT` of 2 or 3, or `SCRAMBLE = 1`, is refused with `RF_UNSUPPORTED`, whatever checks would fail. -/
def Obligations.UnsupportedFeaturesAreRefused : Prop :=
  ∀ (o : HpCfgOperand) (s : State), s.hp.fault = .none → (2 ≤ o.variant.toNat ∨ o.scramble = true) →
    exec (.hpCfg (some o)) s = .refused (.rf .unsupported)

/-! ### Configuration -/

/-- R176, R182, R186, R188: a failing check of `AE.CFG`, the first in table order, halts the engine with `E_CFG` and its
number; nothing of `HP` changes. That the halted engine's other registers, which R182 calls not observable, stay as they were is
the model's choice (log 12). For every numerics and maxima, and so for the machine's. -/
def Obligations.FailedAeCheckHaltsEngine : Prop :=
  ∀ (P : Params) (o : AeCfgOperand) (q : Nat) (s : State), s.ae.fault = .none → 1 ≤ q → q ≤ 9 →
    ¬ AeCheckHolds P o q → (∀ p, 1 ≤ p → p < q → AeCheckHolds P o p) →
    let halted := { s with ae := { s.ae with cfg := false, fault := .eCfg },
                           aePort := .fault ⟨.ae, .eCfg, .check q⟩ }
    aeCfg P (some o) s = .next halted ∧ (P = Config.params → exec (.aeCfg (some o)) s = .next halted)

/-- R175, R180, R181: a configuration all of whose checks hold loads every register, computes `Z`, `K` and the LUT, and puts
every other state of the engine at its reset value, whatever the engine held before; nothing else changes. -/
def Obligations.AeCfgConfiguresAndResets : Prop :=
  ∀ (o : AeCfgOperand) (s : State), s.ae.fault = .none →
    (∀ q, 1 ≤ q → q ≤ 9 → AeCheckHolds Config.params o q) →
    ∃ u : AeUnit, exec (.aeCfg (some o)) s = .next { s with ae := u, aePort := .idle } ∧
      u.nch = o.nch ∧ u.fftLen = o.fftLen ∧ u.occ = o.occ ∧ u.cpLen = o.cpLen ∧ u.maxShift = o.maxShift ∧
      u.phaseSrc = o.phaseSrc ∧ u.ksym.length = o.occ ∧ (∀ i, i < o.occ → u.ksym[i]? = o.ksym[i]?) ∧
      (2 * u.zerosLeft = o.fftLen - o.occ ∨ 2 * u.zerosLeft = o.fftLen - o.occ + 1) ∧
      u.kdiff.length = o.occ - 2 ∧
      (∀ j x y, j + 2 < o.occ → o.ksym[j]? = some x → o.ksym[j + 2]? = some y →
        u.kdiff[j]? = some (Config.params.num.cnorm2 (Config.params.num.csub x y))) ∧
      (o.phaseSrc = .direct → u.lut = none) ∧
      (o.phaseSrc = .lut → ∃ rows, u.lut = some rows ∧ rows.length = 2 * o.maxShift + 1 ∧
        ∀ h row, rows[h]? = some row → row.length = 1000 ∧
          ∀ n, n < 1000 → row[n]? = some (Config.params.num.phaseTab h n o.maxShift o.cpLen o.fftLen)) ∧
      u.coarseFreq = 0 ∧ u.phaseCount = 1 ∧ u.calibrated = false ∧ u.taps = [] ∧ u.cfg = true ∧ u.fault = .none

/-- R178, R182, R186, R188: a failing check of `HP.CFG`, the first in table order, halts the unit with `E_CFG` and its number;
nothing of `AE` changes. That the halted unit's other registers, which R182 calls not observable, stay as they were is the model's
choice (log 12). -/
def Obligations.FailedHpCheckHaltsParser : Prop :=
  ∀ (o : HpCfgOperand) (q : Nat) (s : State), s.hp.fault = .none → o.variant.toNat < 2 → o.scramble = false →
    1 ≤ q → q ≤ 4 → ¬ HpCheckHolds o q → (∀ p, 1 ≤ p → p < q → HpCheckHolds o p) →
    exec (.hpCfg (some o)) s =
      .next { s with hp := { s.hp with cfg := false, fault := .eCfg },
                     hpPort := .fault ⟨.hp, .eCfg, .check q⟩ }

/-- R177, R180, R181: a configuration all of whose checks hold loads every register and puts every other state of the unit at
its reset value, whatever the unit held before; nothing else changes. -/
def Obligations.HpCfgConfiguresAndResets : Prop :=
  ∀ (o : HpCfgOperand) (s : State), s.hp.fault = .none → o.variant.toNat < 2 → o.scramble = false →
    (∀ q, 1 ≤ q → q ≤ 4 → HpCheckHolds o q) →
    ∃ u : HpUnit, exec (.hpCfg (some o)) s = .next { s with hp := u, hpPort := .idle } ∧
      (u.variant = .default ↔ o.variant = 0#2) ∧ u.acLen.toNat = o.acLen ∧ u.thresh.toNat = o.thresh ∧
      u.bpsInit.toNat = o.bpsInit ∧ u.scramble = false ∧
      (∀ i, u.mask.getLsbD i = decide (i < o.acLen)) ∧
      (∀ i, u.acode.getLsbD i = (decide (i < o.acLen) && o.pattern.getLsbD i)) ∧
      u.hdrBody = (if o.variant = 0#2 then 32 else 64) ∧ u.hdrNbits = o.acLen + u.hdrBody ∧
      8 * u.hdrNbytes = u.hdrNbits ∧
      u.state = .search ∧ u.sreg = 0#64 ∧ u.hreg = 0#64 ∧ u.hcount = 0 ∧ u.count = 0#64 ∧
      u.bps.toNat = o.bpsInit ∧ u.counter = 0#16 ∧ u.cfg = true ∧ u.fault = .none

/-! ### Faults -/

/-- R189, R188: a halted unit stays as it is for good, whatever is presented: all its registers and its fault. -/
def Obligations.HaltedUnitNeverChanges : Prop :=
  ∀ s t : State, step s = .next t →
    (s.ae.fault ≠ .none → t.ae = s.ae) ∧ (s.hp.fault ≠ .none → t.hp = s.hp)

/-- R187, R126, R195: a data tuple whose first offending tap is `(i, c)` halts the engine with `E_NUM(i, c)`; no output is
presented, `phase_count` is not observed to advance and nothing of `HP` changes. That the halted engine's registers, which R188
calls not observable, stay as they were is the model's choice (log 12). For every numerics, and so for the machine's. -/
def Obligations.DataTupleNumericEdgeHaltsEngine : Prop :=
  ∀ (P : Params) (t : Tuple) (s : State) (i c : Nat), s.aeReady → FitsEngine s.ae t → s.ae.calibrated = true →
    FirstNumericEdge P s.ae i c →
    let halted := { s with ae := { s.ae with fault := .eNum }, aePort := .fault ⟨.ae, .eNum, .tap i c⟩ }
    aeDat P (some t) s = .next halted ∧ (P = Config.params → exec (.aeDat (some t)) s = .next halted)

/-- R130, R126, R187: a preamble tuple whose new taps have their first offending one at `(i, c)` halts the engine with
`E_NUM(i, c)` and presents no output. -/
def Obligations.PreambleNumericEdgeHaltsEngine : Prop :=
  ∀ (P : Params) (flag : BitVec 8) (t : Tuple) (s : State) (i c : Nat), s.aeReady → FitsEngine s.ae t →
    FirstNumericEdge P (preamblePath P t s.aeDraws s.ae) i c →
    ∃ u : State, aePre P (some t) s = .next u ∧ (P = Config.params → exec (.aePre flag (some t)) s = .next u) ∧
      u.ae.fault = .eNum ∧ u.aePort = .fault ⟨.ae, .eNum, .tap i c⟩ ∧ u.hp = s.hp ∧ u.hpPort = s.hpPort ∧
      u.pending = s.pending ∧ u.report = s.report

/-! ### Acquisition engine -/

/-- R131, R121 to R125, R128, R105: a data tuple of a calibrated engine without a numeric edge presents the combined output
with `out_flag = 0` and advances `phase_count`; nothing else changes. For every numerics, and so for the machine's. -/
def Obligations.DataTupleIsEqualized : Prop :=
  ∀ (P : Params) (t : Tuple) (s : State), s.aeReady → FitsEngine s.ae t → s.ae.calibrated = true →
    NoNumericEdge P s.ae →
    let done := { s with
      ae := { s.ae with phaseCount := if s.ae.phaseCount = 999 then 1 else s.ae.phaseCount + 1 },
      aePort := .tuple (combinedOutput P s.ae t) 0#8 }
    aeDat P (some t) s = .next done ∧ (P = Config.params → exec (.aeDat (some t)) s = .next done)

/-- R127, R131: a data tuple of an uncalibrated engine presents `O` samples, of any value, with `out_flag = 0`, raises nothing
and advances `phase_count`; nothing else of the spec's state changes. -/
def Obligations.UncalibratedDataTupleCompletes : Prop :=
  ∀ (t : Tuple) (s : State), s.aeReady → FitsEngine s.ae t → s.ae.calibrated = false →
    ∃ (out : List C32) (n : Nat), out.length = s.ae.occ ∧
      exec (.aeDat (some t)) s =
        .next { s with ae := { s.ae with phaseCount := if s.ae.phaseCount = 999 then 1 else s.ae.phaseCount + 1 },
                       aePort := .tuple out 0#8, aeDraws := n }

/-- R130, R120, R128, R105: a preamble tuple without a numeric edge presents the combined output of its own taps, de-rotated
with `phase_count = 1`, with `out_flag = 1`, and leaves `phase_count = 2` and the engine calibrated. For every numerics, and so
for the machine's. -/
def Obligations.PreambleTupleIsAcquired : Prop :=
  ∀ (P : Params) (flag : BitVec 8) (t : Tuple) (s : State), s.aeReady → FitsEngine s.ae t →
    let u := preamblePath P t s.aeDraws s.ae
    NoNumericEdge P u →
    u.phaseCount = 1 ∧ u.calibrated = true ∧
    ∃ n : Nat,
      let done := { s with ae := { u with phaseCount := 2 }, aePort := .tuple (combinedOutput P u t) 1#8, aeDraws := n }
      aePre P (some t) s = .next done ∧ (P = Config.params → exec (.aePre flag (some t)) s = .next done)

/-- R110, R126, R130, R131: a tuple of the right shape always runs, on every configured unhalted engine: it presents `O`
samples with the operation's flag, or it is the numeric edge that halts the engine; `HP` is untouched. What the registers of an
engine so halted hold, which R188 calls not observable, is the model's choice (log 12). -/
def Obligations.TupleOperationsAlwaysRun : Prop :=
  ∀ (flag : BitVec 8) (t : Tuple) (s : State), s.aeReady → FitsEngine s.ae t →
    (∃ u : State, exec (.aePre flag (some t)) s = .next u ∧ u.hp = s.hp ∧
      ((∃ out, out.length = s.ae.occ ∧ u.aePort = .tuple out 1#8 ∧ u.ae.phaseCount = 2 ∧ u.ae.calibrated = true ∧
          u.ae.fault = .none) ∨
        (∃ i c, u.aePort = .fault ⟨.ae, .eNum, .tap i c⟩ ∧ u.ae.fault = .eNum))) ∧
    (∃ u : State, exec (.aeDat (some t)) s = .next u ∧ u.hp = s.hp ∧ u.ae.calibrated = s.ae.calibrated ∧
      u.ae.coarseFreq = s.ae.coarseFreq ∧ u.ae.taps = s.ae.taps ∧
      ((∃ out, out.length = s.ae.occ ∧ u.aePort = .tuple out 0#8 ∧ u.ae.fault = .none) ∨
        (∃ i c, u.aePort = .fault ⟨.ae, .eNum, .tap i c⟩ ∧ u.ae.fault = .eNum ∧ s.ae.calibrated = true)))

/-- R130, R22: a preamble tuple writes `coarse_freq`, the taps, `phase_count`, `calibrated` and, on a numeric edge, the fault;
every configuration register, `Z`, `K` and the LUT stay as they are; that they do so also in the engine it halts, whose registers
R188 calls not observable, is the model's choice (log 12). -/
def Obligations.PreambleTupleKeepsConfiguration : Prop :=
  ∀ (flag : BitVec 8) (t : Option Tuple) (s u : State), exec (.aePre flag t) s = .next u →
    u = { s with ae := { s.ae with coarseFreq := u.ae.coarseFreq, taps := u.ae.taps, phaseCount := u.ae.phaseCount,
                                   calibrated := u.ae.calibrated, fault := u.ae.fault },
                 aePort := u.aePort, aeDraws := u.aeDraws }

/-- R117, R118, R119: after a preamble tuple every even tap is the known symbol over the de-rotated sample at the new coarse
offset, every odd tap with a right neighbour the mean of its neighbours, and the last tap of an even `O` a copy. That this also
holds of an engine the same tuple halted with `E_NUM`, whose taps R188 calls not observable, is the model's choice (log 12). -/
def Obligations.PreambleBuildsTaps : Prop :=
  ∀ (P : Params) (t : Tuple) (s u : State) (d : C32), aePre P (some t) s = .next u →
    ∀ c i, c < s.ae.nch → i < s.ae.occ →
      (i % 2 = 0 → nth2 d u.ae.taps c i =
        P.num.cdiv (nth P.noValue s.ae.ksym i) (P.num.cmul (phi P u.ae u.ae.coarseFreq 1) (sample P u.ae t c i))) ∧
      (i % 2 = 1 → i + 1 < s.ae.occ → nth2 d u.ae.taps c i =
        P.num.cdivr (P.num.cadd (nth2 d u.ae.taps c (i - 1)) (nth2 d u.ae.taps c (i + 1))) F32.two) ∧
      (i % 2 = 1 → i + 1 = s.ae.occ → nth2 d u.ae.taps c i = nth2 d u.ae.taps c (i - 1))

/-- R114, R115, R116: a preamble tuple of a configured engine sets `coarse_freq` to `i* - Z` for an `i*` of the half-open
window, whichever it draws when a score is NaN; when none is and `NUM.fgt` orders the scores, `i*` is the least hypothesis of
the window whose score no score of the window exceeds. That this also holds of an engine the same tuple halted with `E_NUM`,
whose `coarse_freq` R188 calls not observable, is the model's choice (log 12). -/
def Obligations.SearchSelectsFirstMaximum : Prop :=
  ∀ (P : Params) (t : Tuple) (s u : State), s.ae.Configured P → aePre P (some t) s = .next u →
    let z := s.ae.zerosLeft
    let m := s.ae.maxShift
    let sc := score P s.ae (differential P s.ae.fftLen (nth [] t 0))
    ∃ best, z - m ≤ best ∧ best < z + m ∧ u.ae.coarseFreq = (best : Int) - z ∧
      -(m : Int) ≤ u.ae.coarseFreq ∧ u.ae.coarseFreq < m ∧
      (OrdersScores P.num → (∀ i, z - m ≤ i → i < z + m → isNaN (sc i) = false) →
        (∀ i, z - m ≤ i → i < z + m → P.num.fgt (sc i) (sc best) = false) ∧
        (∀ i, z - m ≤ i → i < z + m →
          (∀ j, z - m ≤ j → j < z + m → P.num.fgt (sc j) (sc i) = false) → best ≤ i))

/-- R111, R112, R113: the score of a hypothesis is the sum, in ascending `j` from `+0.0`, of the products of the known
symbol's and antenna 0's squared differences. -/
def Obligations.ScoreCorrelatesDifferentials : Prop :=
  ∀ (P : Params) (ae : AeUnit) (s0 : List C32) (d : C32) (i : Nat), ae.Configured P → s0.length = ae.fftLen →
    ae.zerosLeft - ae.maxShift ≤ i → i < ae.zerosLeft + ae.maxShift →
    score P ae (differential P ae.fftLen s0) i =
      (List.range (ae.occ - 2)).foldl (fun acc j => P.num.fadd acc (P.num.fmul
        (P.num.cnorm2 (P.num.csub (nth d ae.ksym j) (nth d ae.ksym (j + 2))))
        (P.num.cnorm2 (P.num.csub (nth d s0 (i + j)) (nth d s0 (i + j + 2)))))) F32.posZero

/-- R132, R62: no operation of a legally configured engine forms an index outside its array: what such an index would read
(log 9) has no effect on any tuple operation. -/
def Obligations.NoIndexLeavesItsArray : Prop :=
  ∀ (P : Params) (z : C32) (t : Tuple) (s : State), s.ae.Inv P → s.ae.cfg = true → FitsEngine s.ae t →
    aePre { P with noValue := z } (some t) s = aePre P (some t) s ∧
      aeDat { P with noValue := z } (some t) s = aeDat P (some t) s

/-- R100, R102: in LUT mode the phase of a hypothesis in `[-M, M]` and a symbol index below 1000 is the table value of row
`d + M`; in direct mode it is the phase function's. -/
def Obligations.PhaseFunctionReadsItsSource : Prop :=
  ∀ (P : Params) (ae : AeUnit) (d : Int) (n : Nat), ae.Configured P →
    (ae.phaseSrc = .direct → phi P ae d n = P.num.phase d n ae.cpLen ae.fftLen) ∧
    (ae.phaseSrc = .lut → -(ae.maxShift : Int) ≤ d → d ≤ ae.maxShift → n < 1000 →
      phi P ae d n = P.num.phaseTab (d + ae.maxShift).toNat n ae.maxShift ae.cpLen ae.fftLen)

/-- R107: from the state a preamble tuple leaves (`phase_count = 2`), after `k` data tuples that raise no fault the next data
path uses `((k + 1) mod 999) + 1`. -/
def Obligations.PhaseCountRunsWithPeriod999 : Prop :=
  ∀ (ts : List Tuple) (s u : State), s.ae.phaseCount = 2 →
    execAll (ts.map fun t => .aeDat (some t)) s = some u → u.ae.fault = .none →
    u.ae.phaseCount = (ts.length + 1) % 999 + 1

/-! ### The units -/

/-- R1, R183, R203: an operation of one unit reads and writes no state of the other: what it does there is nothing, and what it
does in its own unit does not depend on the other. -/
def Obligations.UnitsShareNoState : Prop :=
  ∀ (i : Instr) (s t : State), exec i s = .next t →
    t.pending = s.pending ∧ t.report = s.report ∧
    (i.kind.unit = .ae → t.hp = s.hp ∧ t.hpPort = s.hpPort ∧ t.hpDraws = s.hpDraws ∧
      ∀ s' : State, s'.ae = s.ae → s'.aeDraws = s.aeDraws →
        exec i s' = .next { s' with ae := t.ae, aePort := t.aePort, aeDraws := t.aeDraws }) ∧
    (i.kind.unit = .hp → t.ae = s.ae ∧ t.aePort = s.aePort ∧ t.aeDraws = s.aeDraws ∧
      ∀ s' : State, s'.hp = s.hp → s'.hpDraws = s.hpDraws →
        exec i s' = .next { s' with hp := t.hp, hpPort := t.hpPort, hpDraws := t.hpDraws })

/-- R19, R76: the steps of the two units commute. -/
def Obligations.UnitStepsCommute : Prop :=
  ∀ (i j : Instr) (s a b : State), i.kind.unit = .ae → j.kind.unit = .hp →
    exec i s = .next a → exec j a = .next b → ∃ c, exec j s = .next c ∧ exec i c = .next b

/-! ### Header parser -/

/-- R136 to R139, R160: a hard bit in `SEARCH` counts, shifts the correlator, and enters `HEADER` with a cleared header
register exactly when the low `L_ac` bits are within `THRESH` of the code; nothing else changes. -/
def Obligations.SearchBitShiftsAndMatches : Prop :=
  ∀ (b : Bool) (s : State), s.hpReady → s.hp.Configured → s.hp.state = .search →
    ∃ sreg : BitVec 64, (∀ k, sreg.getLsbD k = if k = 0 then b else decide (k < 64) && s.hp.sreg.getLsbD (k - 1)) ∧
      exec (.hpBit b) s =
        .next { s with
          hp := if hammingDistance s.hp sreg ≤ s.hp.thresh.toNat
            then { s.hp with count := s.hp.count + 1#64, sreg := sreg, state := .header, hreg := 0#64, hcount := 0 }
            else { s.hp with count := s.hp.count + 1#64, sreg := sreg },
          hpPort := .idle }

/-- R154: a threshold at or above the code length matches on every bit received in `SEARCH`. -/
def Obligations.HighThresholdAlwaysMatches : Prop :=
  ∀ (b : Bool) (x : F32) (s : State), s.hpReady → s.hp.Configured → s.hp.state = .search →
    s.hp.acLen.toNat ≤ s.hp.thresh.toNat →
    (∃ t, exec (.hpBit b) s = .next t ∧ t.hp.state = .header) ∧
    (∃ t, exec (.hpSoft (some x)) s = .next t ∧ t.hp.state = .header)

/-- R136, R140, R141: a hard bit in `HEADER` that does not complete the body counts and is shifted into the header register;
the correlator and everything else stay as they are. -/
def Obligations.HeaderBitShiftsIntoHeader : Prop :=
  ∀ (b : Bool) (s : State), s.hpReady → s.hp.state = .header → s.hp.hcount + 1 ≠ s.hp.hdrBody →
    ∃ hreg : BitVec 64, (∀ k, hreg.getLsbD k = if k = 0 then b else decide (k < 64) && s.hp.hreg.getLsbD (k - 1)) ∧
      exec (.hpBit b) s =
        .next { s with hp := { s.hp with count := s.hp.count + 1#64, hreg := hreg, hcount := s.hp.hcount + 1 },
                       hpPort := .idle }

/-- R141, R142, R144, R146, R147, R148: the bit that completes a `DEFAULT` header emits the descriptor
`{count, 8 * len}` when the two copies of `len` agree and nothing when they do not; either way the machine is back in
`SEARCH` with `hreg` kept and `sreg` held or cleared by the policy, `bps` as it was. -/
def Obligations.DefaultHeaderCompletes : Prop :=
  ∀ (b : Bool) (s : State), s.hpReady → s.hp.state = .header → s.hp.hcount + 1 = s.hp.hdrBody →
    s.hp.variant = .default →
    let hreg := (2 * s.hp.hreg.toNat + b.toNat) % 2 ^ 64
    let len := hreg % 2 ^ 16
    exec (.hpBit b) s =
      .next { s with
        hp := { s.hp with count := s.hp.count + 1#64, hreg := BitVec.ofNat 64 hreg, hcount := 0, state := .search,
                          sreg := match Config.params.sregOnReturn with
                            | .hold => s.hp.sreg
                            | .clear => 0#64 },
        hpPort := if hreg / 2 ^ 16 % 2 ^ 16 = len
          then .desc (.default (s.hp.count + 1#64) (BitVec.ofNat 32 (8 * len))) else .idle }

/-- R141, R143, R145, R146, R147, R148: the bit that completes a `COUNTER` header emits the descriptor
`{count, 8 * len, bps, counter}` and writes `bps` when the two copies of `len` agree, and neither when they do not; the
`counter` register is not written; the return is as for the default variant. -/
def Obligations.CounterHeaderCompletes : Prop :=
  ∀ (b : Bool) (s : State), s.hpReady → s.hp.state = .header → s.hp.hcount + 1 = s.hp.hdrBody →
    s.hp.variant = .counter →
    let hreg := (2 * s.hp.hreg.toNat + b.toNat) % 2 ^ 64
    let len := hreg / 2 ^ 32 % 2 ^ 16
    let good := hreg / 2 ^ 48 % 2 ^ 16 = len
    let bps := BitVec.ofNat 16 (hreg / 2 ^ 16)
    exec (.hpBit b) s =
      .next { s with
        hp := { s.hp with count := s.hp.count + 1#64, hreg := BitVec.ofNat 64 hreg, hcount := 0, state := .search,
                          bps := if good then bps else s.hp.bps,
                          sreg := match Config.params.sregOnReturn with
                            | .hold => s.hp.sreg
                            | .clear => 0#64 },
        hpPort := if good
          then .desc (.counter (s.hp.count + 1#64) (BitVec.ofNat 32 (8 * len)) bps (BitVec.ofNat 16 hreg))
          else .idle }

/-- R150, R152: a sample that is neither NaN nor `-0.0` does what the hard bit of its sign does: 1 when it is not `+0.0` and
`NUM.lt0` says it is below zero, else 0. -/
def Obligations.SoftSampleIsItsSignBit : Prop :=
  ∀ (x : F32) (s : State), isNaN x = false → x ≠ F32.negZero →
    exec (.hpSoft (some x)) s = exec (.hpBit (decide (x ≠ F32.posZero) && Config.params.num.lt0 x)) s

/-- R150, R152: NaN and `-0.0` step the machine by some bit, whichever: everything but the model's count of draws is what that
hard bit does. -/
def Obligations.OpenSampleStepsSomeBit : Prop :=
  ∀ (x : F32) (s : State), s.hpReady → (isNaN x = true ∨ x = F32.negZero) →
    ∃ (b : Bool) (t : State), exec (.hpBit b) s = .next t ∧
      exec (.hpSoft (some x)) s = .next { t with hpDraws := t.hpDraws + 1 }

/-- R157: samples that decide their bits give the state and the descriptors those bits give. -/
def Obligations.SoftStreamEqualsHardStream : Prop :=
  ∀ (xs : List F32) (bits : List Bool) (s : State),
    List.Forall₂ (fun x b => isNaN x = false ∧ x ≠ F32.negZero ∧ x ≠ F32.posZero ∧ Config.params.num.lt0 x = b)
      xs bits →
    execDescs (xs.map fun x => .hpSoft (some x)) s = execDescs (bits.map .hpBit) s

/-- R136: `n` bits move the bit counter by `n`, modulo 2^64, whatever the machine finds in them. -/
def Obligations.BitCounterCountsEveryBit : Prop :=
  ∀ (bits : List Bool) (s t : State), execAll (bits.map .hpBit) s = some t →
    t.hp.count = s.hp.count + BitVec.ofNat 64 bits.length

/-- R164: no bit, sample or state makes `HP.BIT` or `HP.SOFT` raise a fault: in every state each completes, leaves the fault
field alone and presents no fault, or is refused; and it is refused by nothing once the unit is ready. -/
def Obligations.BitsAndSamplesNeverFault : Prop :=
  ∀ (i : Instr) (s : State), (∃ b, i = .hpBit b) ∨ (∃ x, i = .hpSoft x) →
    ((∃ c, exec i s = .refused (.rf c)) ∨
      ∃ t, exec i s = .next t ∧ t.hp.fault = s.hp.fault ∧ t.hp.cfg = s.hp.cfg ∧ ∀ r, t.hpPort ≠ .fault r) ∧
    (s.hpReady → i.operandsPresent = true → ∃ t, exec i s = .next t ∧ t.hpReady)

/-- R158: from `SEARCH`, no stream of at most `HDR_BODY` bits emits a descriptor. -/
def Obligations.DescriptorsAreFarApart : Prop :=
  ∀ (bits : List Bool) (s : State), s.hpReady → s.hp.state = .search → bits.length ≤ s.hp.hdrBody →
    ∃ t, execDescs (bits.map .hpBit) s = some (t, [])

/-- R155, R156: the header bytes a unit formats for `n` bytes, parsed by a unit of the same configuration that is in `SEARCH`
and matches at no bit before the access code's last, give one descriptor, at `count` plus the header's size, with
`8 * (n mod 2^16)` payload bits and, in the counter variant, the `bps` and `counter` fields formatted. -/
def Obligations.FormattedHeaderParsesBack : Prop :=
  ∀ (n : BitVec 32) (s p : State), s.hpReady → s.hp.Configured → p.hpReady → p.hp.Configured →
    p.hp.variant = s.hp.variant → p.hp.acLen = s.hp.acLen → p.hp.acode = s.hp.acode → p.hp.state = .search →
    (∀ k q ds, k < s.hp.acLen.toNat →
      execDescs (((bytesBits (headerBytes s.hp n)).take k).map .hpBit) p = some (q, ds) → q.hp.state = .search) →
    ∃ q, execDescs ((bytesBits (headerBytes s.hp n)).map .hpBit) p =
      some (q, [match s.hp.variant with
        | .default => .default (p.hp.count + BitVec.ofNat 64 s.hp.hdrNbits) (BitVec.ofNat 32 (8 * (n.toNat % 2 ^ 16)))
        | .counter => .counter (p.hp.count + BitVec.ofNat 64 s.hp.hdrNbits) (BitVec.ofNat 32 (8 * (n.toNat % 2 ^ 16)))
            s.hp.bps s.hp.counter]) ∧
      q.hp.state = .search

/-! ### Header formatter and queries -/

/-- R165, R166, R167, R92: a format request of the default variant presents the access code, most significant byte first, and
twice the length modulo 2^16, big-endian, with success; no state of the unit changes. -/
def Obligations.DefaultHeaderIsFormatted : Prop :=
  ∀ (n : BitVec 32) (s : State), s.hpReady → s.hp.Configured → s.hp.variant = .default →
    ∃ bytes : List (BitVec 8), exec (.hpFmt (some n)) s = .next { s with hpPort := .hdr bytes true } ∧
      bytes.map BitVec.toNat =
        ((List.range (s.hp.acLen.toNat / 8)).map fun t =>
          s.hp.acode.toNat / 2 ^ (s.hp.acLen.toNat - 8 - 8 * t) % 256) ++
        [n.toNat / 256 % 256, n.toNat % 256, n.toNat / 256 % 256, n.toNat % 256]

/-- R167, R168, R173, R93: a format request of the counter variant presents in addition the `bps` register and the counter as
it was, each big-endian, and adds 1 to the counter modulo 2^16; nothing else changes. -/
def Obligations.CounterHeaderIsFormatted : Prop :=
  ∀ (n : BitVec 32) (s : State), s.hpReady → s.hp.Configured → s.hp.variant = .counter →
    ∃ bytes : List (BitVec 8),
      exec (.hpFmt (some n)) s =
        .next { s with hp := { s.hp with counter := s.hp.counter + 1#16 }, hpPort := .hdr bytes true } ∧
      bytes.map BitVec.toNat =
        ((List.range (s.hp.acLen.toNat / 8)).map fun t =>
          s.hp.acode.toNat / 2 ^ (s.hp.acLen.toNat - 8 - 8 * t) % 256) ++
        [n.toNat / 256 % 256, n.toNat % 256, n.toNat / 256 % 256, n.toNat % 256,
         s.hp.bps.toNat / 256, s.hp.bps.toNat % 256, s.hp.counter.toNat / 256, s.hp.counter.toNat % 256]

/-- R168: `k` format requests of the counter variant move the counter by `k` modulo 2^16. -/
def Obligations.FormatCounterCountsModulo65536 : Prop :=
  ∀ (ns : List (BitVec 32)) (s t : State), s.hp.variant = .counter →
    execAll (ns.map fun n => .hpFmt (some n)) s = some t →
    t.hp.counter.toNat = (s.hp.counter.toNat + ns.length) % 2 ^ 16

/-- R169, R170, R171, R74: the size queries present the header's size in bits and in bytes, which agree and are the length of
every header the unit formats; they change nothing. -/
def Obligations.SizeQueriesAgreeWithHeaders : Prop :=
  ∀ (n : BitVec 32) (s : State), s.hpReady → s.hp.Configured →
    let fields := match s.hp.variant with
      | .default => 2
      | .counter => 4
    exec .hpQnbits s = .next { s with hpPort := .size (s.hp.acLen.toNat + 16 * fields) } ∧
    exec .hpQnbytes s = .next { s with hpPort := .size (s.hp.acLen.toNat / 8 + 2 * fields) } ∧
    8 * (s.hp.acLen.toNat / 8 + 2 * fields) = s.hp.acLen.toNat + 16 * fields ∧
    ∃ t bytes, exec (.hpFmt (some n)) s = .next t ∧ t.hpPort = .hdr bytes true ∧
      bytes.length = s.hp.acLen.toNat / 8 + 2 * fields
end

