-- ==== Sys2Proof/Laws/State.lean ====
section
/-! SUPPORT. What each named update of the state does to each field, so that no proof unfolds a record update. -/

namespace Sys2Proof.Machine

@[simp] theorem State.withAe_ae (s : State) (u : AeUnit) : (s.withAe u).ae = u := rfl
@[simp] theorem State.withAe_hp (s : State) (u : AeUnit) : (s.withAe u).hp = s.hp := rfl
@[simp] theorem State.withAe_aePort (s : State) (u : AeUnit) : (s.withAe u).aePort = s.aePort := rfl
@[simp] theorem State.withAe_hpPort (s : State) (u : AeUnit) : (s.withAe u).hpPort = s.hpPort := rfl
@[simp] theorem State.withAe_report (s : State) (u : AeUnit) : (s.withAe u).report = s.report := rfl
@[simp] theorem State.withAe_pending (s : State) (u : AeUnit) : (s.withAe u).pending = s.pending := rfl
@[simp] theorem State.withAe_aeDraws (s : State) (u : AeUnit) : (s.withAe u).aeDraws = s.aeDraws := rfl
@[simp] theorem State.withAe_hpDraws (s : State) (u : AeUnit) : (s.withAe u).hpDraws = s.hpDraws := rfl

@[simp] theorem State.withHp_ae (s : State) (u : HpUnit) : (s.withHp u).ae = s.ae := rfl
@[simp] theorem State.withHp_hp (s : State) (u : HpUnit) : (s.withHp u).hp = u := rfl
@[simp] theorem State.withHp_aePort (s : State) (u : HpUnit) : (s.withHp u).aePort = s.aePort := rfl
@[simp] theorem State.withHp_hpPort (s : State) (u : HpUnit) : (s.withHp u).hpPort = s.hpPort := rfl
@[simp] theorem State.withHp_report (s : State) (u : HpUnit) : (s.withHp u).report = s.report := rfl
@[simp] theorem State.withHp_pending (s : State) (u : HpUnit) : (s.withHp u).pending = s.pending := rfl
@[simp] theorem State.withHp_aeDraws (s : State) (u : HpUnit) : (s.withHp u).aeDraws = s.aeDraws := rfl
@[simp] theorem State.withHp_hpDraws (s : State) (u : HpUnit) : (s.withHp u).hpDraws = s.hpDraws := rfl

@[simp] theorem State.presentAe_ae (s : State) (o : AeOut) : (s.presentAe o).ae = s.ae := rfl
@[simp] theorem State.presentAe_hp (s : State) (o : AeOut) : (s.presentAe o).hp = s.hp := rfl
@[simp] theorem State.presentAe_aePort (s : State) (o : AeOut) : (s.presentAe o).aePort = o := rfl
@[simp] theorem State.presentAe_hpPort (s : State) (o : AeOut) : (s.presentAe o).hpPort = s.hpPort := rfl
@[simp] theorem State.presentAe_report (s : State) (o : AeOut) : (s.presentAe o).report = s.report := rfl
@[simp] theorem State.presentAe_pending (s : State) (o : AeOut) : (s.presentAe o).pending = s.pending := rfl
@[simp] theorem State.presentAe_aeDraws (s : State) (o : AeOut) : (s.presentAe o).aeDraws = s.aeDraws := rfl
@[simp] theorem State.presentAe_hpDraws (s : State) (o : AeOut) : (s.presentAe o).hpDraws = s.hpDraws := rfl

@[simp] theorem State.presentHp_ae (s : State) (o : HpOut) : (s.presentHp o).ae = s.ae := rfl
@[simp] theorem State.presentHp_hp (s : State) (o : HpOut) : (s.presentHp o).hp = s.hp := rfl
@[simp] theorem State.presentHp_aePort (s : State) (o : HpOut) : (s.presentHp o).aePort = s.aePort := rfl
@[simp] theorem State.presentHp_hpPort (s : State) (o : HpOut) : (s.presentHp o).hpPort = o := rfl
@[simp] theorem State.presentHp_report (s : State) (o : HpOut) : (s.presentHp o).report = s.report := rfl
@[simp] theorem State.presentHp_pending (s : State) (o : HpOut) : (s.presentHp o).pending = s.pending := rfl
@[simp] theorem State.presentHp_aeDraws (s : State) (o : HpOut) : (s.presentHp o).aeDraws = s.aeDraws := rfl
@[simp] theorem State.presentHp_hpDraws (s : State) (o : HpOut) : (s.presentHp o).hpDraws = s.hpDraws := rfl

@[simp] theorem State.countAeDraws_ae (s : State) (n : Nat) : (s.countAeDraws n).ae = s.ae := rfl
@[simp] theorem State.countAeDraws_hp (s : State) (n : Nat) : (s.countAeDraws n).hp = s.hp := rfl
@[simp] theorem State.countAeDraws_aePort (s : State) (n : Nat) : (s.countAeDraws n).aePort = s.aePort := rfl
@[simp] theorem State.countAeDraws_hpPort (s : State) (n : Nat) : (s.countAeDraws n).hpPort = s.hpPort := rfl
@[simp] theorem State.countAeDraws_report (s : State) (n : Nat) : (s.countAeDraws n).report = s.report := rfl
@[simp] theorem State.countAeDraws_pending (s : State) (n : Nat) : (s.countAeDraws n).pending = s.pending := rfl
@[simp] theorem State.countAeDraws_aeDraws (s : State) (n : Nat) : (s.countAeDraws n).aeDraws = s.aeDraws + n := rfl
@[simp] theorem State.countAeDraws_hpDraws (s : State) (n : Nat) : (s.countAeDraws n).hpDraws = s.hpDraws := rfl

@[simp] theorem State.countHpDraws_ae (s : State) (n : Nat) : (s.countHpDraws n).ae = s.ae := rfl
@[simp] theorem State.countHpDraws_hp (s : State) (n : Nat) : (s.countHpDraws n).hp = s.hp := rfl
@[simp] theorem State.countHpDraws_aePort (s : State) (n : Nat) : (s.countHpDraws n).aePort = s.aePort := rfl
@[simp] theorem State.countHpDraws_hpPort (s : State) (n : Nat) : (s.countHpDraws n).hpPort = s.hpPort := rfl
@[simp] theorem State.countHpDraws_report (s : State) (n : Nat) : (s.countHpDraws n).report = s.report := rfl
@[simp] theorem State.countHpDraws_pending (s : State) (n : Nat) : (s.countHpDraws n).pending = s.pending := rfl
@[simp] theorem State.countHpDraws_aeDraws (s : State) (n : Nat) : (s.countHpDraws n).aeDraws = s.aeDraws := rfl
@[simp] theorem State.countHpDraws_hpDraws (s : State) (n : Nat) : (s.countHpDraws n).hpDraws = s.hpDraws + n := rfl

@[simp] theorem State.taken_ae (s : State) (r : List RawOp) : (s.taken r).ae = s.ae := rfl
@[simp] theorem State.taken_hp (s : State) (r : List RawOp) : (s.taken r).hp = s.hp := rfl
@[simp] theorem State.taken_aePort (s : State) (r : List RawOp) : (s.taken r).aePort = .idle := rfl
@[simp] theorem State.taken_hpPort (s : State) (r : List RawOp) : (s.taken r).hpPort = .idle := rfl
@[simp] theorem State.taken_report (s : State) (r : List RawOp) : (s.taken r).report = none := rfl
@[simp] theorem State.taken_pending (s : State) (r : List RawOp) : (s.taken r).pending = r := rfl
@[simp] theorem State.taken_aeDraws (s : State) (r : List RawOp) : (s.taken r).aeDraws = s.aeDraws := rfl
@[simp] theorem State.taken_hpDraws (s : State) (r : List RawOp) : (s.taken r).hpDraws = s.hpDraws := rfl

@[simp] theorem State.refuse_ae (s : State) (c : RfCode) : (s.refuse c).ae = s.ae := rfl
@[simp] theorem State.refuse_hp (s : State) (c : RfCode) : (s.refuse c).hp = s.hp := rfl
@[simp] theorem State.refuse_aePort (s : State) (c : RfCode) : (s.refuse c).aePort = s.aePort := rfl
@[simp] theorem State.refuse_hpPort (s : State) (c : RfCode) : (s.refuse c).hpPort = s.hpPort := rfl
@[simp] theorem State.refuse_report (s : State) (c : RfCode) : (s.refuse c).report = some c := rfl
@[simp] theorem State.refuse_pending (s : State) (c : RfCode) : (s.refuse c).pending = s.pending := rfl
@[simp] theorem State.refuse_aeDraws (s : State) (c : RfCode) : (s.refuse c).aeDraws = s.aeDraws := rfl
@[simp] theorem State.refuse_hpDraws (s : State) (c : RfCode) : (s.refuse c).hpDraws = s.hpDraws := rfl

@[simp] theorem State.presentedFirst_ae (s : State) (o : RawOp) : (s.presentedFirst o).ae = s.ae := rfl
@[simp] theorem State.presentedFirst_hp (s : State) (o : RawOp) : (s.presentedFirst o).hp = s.hp := rfl
@[simp] theorem State.presentedFirst_aePort (s : State) (o : RawOp) : (s.presentedFirst o).aePort = s.aePort := rfl
@[simp] theorem State.presentedFirst_hpPort (s : State) (o : RawOp) : (s.presentedFirst o).hpPort = s.hpPort := rfl
@[simp] theorem State.presentedFirst_report (s : State) (o : RawOp) : (s.presentedFirst o).report = s.report := rfl
@[simp] theorem State.presentedFirst_pending (s : State) (o : RawOp) : (s.presentedFirst o).pending = o :: s.pending := rfl
@[simp] theorem State.presentedFirst_aeDraws (s : State) (o : RawOp) : (s.presentedFirst o).aeDraws = s.aeDraws := rfl
@[simp] theorem State.presentedFirst_hpDraws (s : State) (o : RawOp) : (s.presentedFirst o).hpDraws = s.hpDraws := rfl

end Sys2Proof.Machine
end

