-- ==== Sys2Proof/Laws/Ops.lean ====
section
/-! SUPPORT. What the shared operations can do: admission, raising a fault, settling an outcome, reading an array. -/

namespace Sys2Proof.Machine

/-- A halted unit admits nothing. -/
theorem gate_halted {u : UnitId} {isCfg : Bool} {s : State} (h : s.unitFault u ≠ .none) :
    gate u isCfg s = some .halted := by simp [gate, h]

/-- An unconfigured unit admits only its configuration operation. -/
theorem gate_unconfigured {u : UnitId} {s : State} (h : s.unitFault u = .none) (hc : s.unitCfg u = false) :
    gate u false s = some .unconfigured := by simp [gate, h, hc]

/-- What it takes to be admitted. -/
theorem gate_eq_none {u : UnitId} {isCfg : Bool} {s : State} :
    gate u isCfg s = none ↔ s.unitFault u = .none ∧ (isCfg = true ∨ s.unitCfg u = true) := by
  unfold gate
  by_cases h : s.unitFault u = .none <;> cases isCfg <;> cases hc : s.unitCfg u <;> simp [h]

/-- A configured, unhalted unit admits every operation. -/
theorem gate_ready {u : UnitId} {isCfg : Bool} {s : State} (h : s.unitFault u = .none) (hc : s.unitCfg u = true) :
    gate u isCfg s = none := gate_eq_none.2 ⟨h, .inr hc⟩

/-- An unhalted unit admits its configuration operation. -/
theorem gate_cfg {u : UnitId} {s : State} (h : s.unitFault u = .none) : gate u true s = none :=
  gate_eq_none.2 ⟨h, .inl rfl⟩

@[simp] theorem unitFault_ae (s : State) : s.unitFault .ae = s.ae.fault := rfl
@[simp] theorem unitFault_hp (s : State) : s.unitFault .hp = s.hp.fault := rfl
@[simp] theorem unitCfg_ae (s : State) : s.unitCfg .ae = s.ae.cfg := rfl
@[simp] theorem unitCfg_hp (s : State) : s.unitCfg .hp = s.hp.cfg := rfl

/-- A fault of `AE` writes its fault field and its port, nothing else. -/
theorem raiseFault_ae (code : FaultCode) (info : FaultInfo) (s : State) :
    raiseFault .ae code info s =
      { s with ae := { s.ae with fault := code }, aePort := .fault ⟨.ae, code, info⟩ } := rfl

/-- A fault of `HP` writes its fault field and its port, nothing else. -/
theorem raiseFault_hp (code : FaultCode) (info : FaultInfo) (s : State) :
    raiseFault .hp code info s =
      { s with hp := { s.hp with fault := code }, hpPort := .fault ⟨.hp, code, info⟩ } := rfl

@[simp] theorem settle_next (s t : State) : settle s (.next t) = .next t := rfl
@[simp] theorem settle_rf (s : State) (c : RfCode) : settle s (.refused (.rf c)) = .next (s.refuse c) := rfl

/-- Where an array has the element, reading it does not depend on the default. -/
theorem nth_eq_getElem {α : Type} (d : α) {l : List α} {i : Nat} (h : i < l.length) : nth d l i = l[i] := by
  simp [nth, h]

@[simp] theorem nth_nil {α : Type} (d : α) (i : Nat) : nth d [] i = d := rfl
@[simp] theorem nth_cons_zero {α : Type} (d x : α) (l : List α) : nth d (x :: l) 0 = x := rfl
@[simp] theorem nth_cons_succ {α : Type} (d x : α) (l : List α) (i : Nat) : nth d (x :: l) (i + 1) = nth d l i := rfl

/-- Element `i` of a computed array. -/
theorem nth_map_range {α : Type} (d : α) (f : Nat → α) {n i : Nat} (h : i < n) :
    nth d ((List.range n).map f) i = f i := by simp [nth, h]

/-- A nonnegative integer index reads as the natural one. -/
theorem nthInt_of_nonneg {α : Type} (d : α) (l : List α) {k : Int} (h : 0 ≤ k) : nthInt d l k = nth d l k.toNat := by
  cases k with
  | ofNat i => rfl
  | negSucc i => exact absurd h (by simp)

end Sys2Proof.Machine
end

