-- ==== Sys2Proof/Laws/Acquisition.lean ====
section
/-! SUPPORT. What the engine's shared operations can do: the search answers a hypothesis of the window, the taps have their
shape, the data path answers a vector of `O` samples or a tap, and a tuple operation is one of its cases. -/

namespace Sys2Proof.Machine

/-- Everything a tuple operation can answer. -/
theorem withTuple_next {tuple : Option Tuple} {s u : State} {body : Tuple → State}
    (h : withTuple tuple s body = .next u) :
    s.ae.fault = .none ∧ s.ae.cfg = true ∧
      ∃ t, tuple = some t ∧ tupleShape s.ae.nch s.ae.fftLen t = true ∧ u = body t := by
  unfold withTuple at h
  split at h
  · cases h
  · rename_i ha
    obtain ⟨hf, hc⟩ := gate_eq_none.1 ha
    split at h
    · cases h
    · rename_i t ht
      unfold takeTuple at ht
      split at ht
      · split at ht
        · cases ht; cases h
          exact ⟨hf, by simpa using hc, _, rfl, by assumption, rfl⟩
        · cases ht
      · cases ht

/-- A tuple of the right shape, presented to a configured unhalted engine, runs. -/
theorem withTuple_ready {t : Tuple} {s : State} (body : Tuple → State) (hf : s.ae.fault = .none)
    (hc : s.ae.cfg = true) (ht : tupleShape s.ae.nch s.ae.fftLen t = true) :
    withTuple (some t) s body = .next (body t) := by
  simp [withTuple, gate_ready (u := .ae) hf hc, takeTuple, ht]

/-- The fold of the selection ends in the list it runs over. -/
theorem foldl_better_mem (num : Numerics) (xs : List (Nat × F32)) (x : Nat × F32) :
    xs.foldl (better num) x = x ∨ xs.foldl (better num) x ∈ xs := by
  induction xs generalizing x with
  | nil => exact .inl rfl
  | cons y ys ih =>
    rw [List.foldl_cons]
    rcases ih (better num x y) with h | h
    · rw [h]
      unfold better
      split <;> simp
    · exact .inr (List.mem_cons_of_mem _ h)

/-- The selected hypothesis is one of those scored. -/
theorem bestOf_mem (num : Numerics) (lowest : Nat) {sc : List (Nat × F32)} (h : sc ≠ []) :
    bestOf num lowest sc ∈ sc.map Prod.fst := by
  cases sc with
  | nil => exact absurd rfl h
  | cons x xs =>
    rcases foldl_better_mem num xs x with e | e
    · simp [bestOf, e]
    · simpa [bestOf] using .inr ⟨_, e⟩

/-- `i*` lies in the window, drawn or selected (R114, R115). -/
theorem selected_range (P : Params) (ae : AeUnit) (s0 : List C32) (draw : Nat) (hm : 1 ≤ ae.maxShift) :
    ae.zerosLeft - ae.maxShift ≤ selected P ae (scored P ae s0) draw ∧
      selected P ae (scored P ae s0) draw < ae.zerosLeft - ae.maxShift + 2 * ae.maxShift := by
  unfold selected
  simp only
  split
  · have := Nat.mod_lt (P.drawHyp draw) (show 0 < 2 * ae.maxShift by omega)
    omega
  · have hne : scored P ae s0 ≠ [] := by
      simp [scored, searchWindow, List.range'_eq_nil_iff]; omega
    have h := bestOf_mem P.num (ae.zerosLeft - ae.maxShift) hne
    simp only [scored, searchWindow, List.map_map] at h
    obtain ⟨i, hi, he⟩ := List.mem_map.1 h
    rw [List.mem_range'_1] at hi
    simp only [Function.comp] at he
    rw [show (scored P ae s0) = _ from rfl]
    simp only [scored, searchWindow]
    omega

/-- Antenna by antenna, carrier by carrier, the preamble path writes every tap (R119). -/
theorem allTaps_length (P : Params) (ae : AeUnit) (t : Tuple) : (allTaps P ae t).length = ae.nch := by
  simp [allTaps]

theorem allTaps_row_length (P : Params) (ae : AeUnit) (t : Tuple) : ∀ row ∈ allTaps P ae t, row.length = ae.occ := by
  intro row h
  obtain ⟨c, -, rfl⟩ := List.mem_map.1 h
  simp

/-- Tap `i` of antenna `c` after the preamble path. -/
theorem nth2_allTaps (P : Params) (ae : AeUnit) (t : Tuple) (d : C32) {c i : Nat} (hc : c < ae.nch) (hi : i < ae.occ) :
    nth2 d (allTaps P ae t) c i = tapOf P ae t c i := by
  simp [nth2, allTaps, nth_map_range, hc, hi]

/-- What the preamble path leaves of the engine's configuration. -/
theorem preamblePath_eq (P : Params) (t : Tuple) (draw : Nat) (ae : AeUnit) :
    ∃ cf : Int, cf = (selected P ae (scored P ae (nth [] t 0)) draw : Int) - ae.zerosLeft ∧
      preamblePath P t draw ae =
        { ae with coarseFreq := cf, taps := allTaps P { ae with coarseFreq := cf } t, phaseCount := 1,
                  calibrated := true } :=
  ⟨_, rfl, rfl⟩

/-- A completed data path answers one sample per carrier. -/
theorem carriers_length {P : Params} {ae : AeUnit} {t : Tuple} {is : List Nat} {out : List C32}
    (h : carriers P ae t is = .ok out) : out.length = is.length := by
  induction is generalizing out with
  | nil => cases h; rfl
  | cons i is ih =>
    unfold carriers at h
    split at h
    · cases h
    · split at h
      · cases h
      · rename_i hz; cases h; simp [ih hz]

theorem dataPath_length {P : Params} {ae : AeUnit} {t : Tuple} {out : List C32} (h : dataPath P ae t = .ok out) :
    out.length = ae.occ := by simpa using carriers_length h

/-- The two ends of the data path on the state. -/
theorem runDataPath_cases (P : Params) (t : Tuple) (flag : BitVec 8) (s : State) :
    (∃ out, dataPath P s.ae t = .ok out ∧ runDataPath P t flag s = finishTuple out flag s) ∨
      (∃ i c, dataPath P s.ae t = .error (i, c) ∧ runDataPath P t flag s = raiseFault .ae .eNum (.tap i c) s) := by
  unfold runDataPath
  cases h : dataPath P s.ae t with
  | ok out => exact .inl ⟨out, rfl, rfl⟩
  | error e => exact .inr ⟨e.1, e.2, rfl, rfl⟩

/-- The accumulator's advance stays in `[1, 999]` (R105, R106). -/
theorem advancePhase_range {n : Nat} (h : 1 ≤ n ∧ n < maxNumSymbols) :
    1 ≤ advancePhase n ∧ advancePhase n < maxNumSymbols := by
  unfold advancePhase maxNumSymbols at *
  split <;> omega

end Sys2Proof.Machine
end

