-- ==== Sys2Proof/Laws/Decode.lean ====
section
/-! SUPPORT. The decoder's helpers: port words read back as written, and the operation map read by PORT and SUB (R80). -/

namespace Sys2Proof

/-- A word that is written is read back. -/
theorem readWord_toNat {n : Nat} (w : BitVec n) : readWord n w.toNat = some w := by
  simp [readWord, w.isLt]

@[simp] theorem readBit_writeBit (b : Bool) : readBit (writeBit b) = some b := by cases b <;> rfl

/-- The low part of two words put together. -/
theorem extractLsb'_append_low {m n : Nat} (a : BitVec m) (b : BitVec n) : (a ++ b).extractLsb' 0 n = b := by
  ext i hi
  simp [BitVec.getLsbD_append, hi]

/-- The high part of two words put together. -/
theorem extractLsb'_append_high {m n : Nat} (a : BitVec m) (b : BitVec n) : (a ++ b).extractLsb' n m = a := by
  ext i hi
  simp [BitVec.getLsbD_append, hi]

/-- Packing a complex sample loses nothing (R69). -/
@[simp] theorem C32.ofWord_toWord (z : C32) : C32.ofWord z.toWord = z := by
  cases z with
  | mk re im =>
    exact congrArg₂ C32.mk (extractLsb'_append_low im re) (extractLsb'_append_high im re)

@[simp] theorem readC32_writeC32 (z : C32) : readC32 (writeC32 z) = some z := by
  simp [readC32, writeC32, readWord_toNat]

/-- Reading back a list of written elements. -/
theorem readAll_map {α β : Type} {f : α → Option β} {g : β → α} (h : ∀ y, f (g y) = some y) (ys : List β) :
    readAll f (ys.map g) = some ys := by
  induction ys with
  | nil => rfl
  | cons y ys ih => simp [readAll, h, ih]

/-- The selector words of each port, the second way to read the map of R81: PORT, then SUB. -/
def selectByPort (sel : BitVec 12) : Option OpKind :=
  match (selPort sel).toNat with
  | 0 => if selSub sel = 0#8 then some .aeCfg else none
  | 1 => if selSub sel = 0#8 then some .aeDat else some .aePre
  | 2 => if (selSub sel).toNat < 2 then some .hpBit else none
  | 3 => if selSub sel = 0#8 then some .hpSoft else none
  | 4 => if selSub sel = 0#8 then some .hpFmt else none
  | 5 => if selSub sel = 0#8 then some .hpQnbits else if selSub sel = 1#8 then some .hpQnbytes else none
  | 6 => if selSub sel = 0#8 then some .hpCfg else none
  | _ => none

/-- The two halves of a word put together again. -/
theorem append_extractLsb' (v : BitVec 12) : selPort v ++ selSub v = v := by
  apply BitVec.eq_of_toNat_eq
  simp only [selPort, selSub, BitVec.toNat_append, BitVec.extractLsb'_toNat, Nat.shiftRight_eq_div_pow]
  rw [← Nat.shiftLeft_add_eq_or_of_lt (by omega), Nat.shiftLeft_eq]
  have := v.isLt
  omega

/-- A row with a PORT and a SUB mask selects a word exactly when both parts match. -/
theorem and_eq_append_iff (sel : BitVec 12) (a c : BitVec 4) (b d : BitVec 8) :
    sel &&& (a ++ b) = c ++ d ↔ selPort sel &&& a = c ∧ selSub sel &&& b = d := by
  have e : sel &&& (a ++ b) = (selPort sel &&& a) ++ (selSub sel &&& b) := by
    conv_lhs => rw [← append_extractLsb' sel]
    exact BitVec.and_append
  rw [e]
  constructor
  · intro h
    exact ⟨by simpa only [extractLsb'_append_high] using congrArg (BitVec.extractLsb' 8 4) h,
      by simpa only [extractLsb'_append_low] using congrArg (BitVec.extractLsb' 0 8) h⟩
  · rintro ⟨rfl, rfl⟩; rfl

/-- A bit's SUB: nothing above bit 0 (R84). -/
theorem and_fe_eq_zero : ∀ q : BitVec 8, q &&& 0xFE#8 = 0#8 ↔ q.toNat < 2 := by
  have h : ∀ n : Fin 256, (BitVec.ofFin n : BitVec 8) &&& 0xFE#8 = 0#8 ↔ (BitVec.ofFin n : BitVec 8).toNat < 2 := by
    decide +kernel
  exact fun q => h q.toFin

/-- The rows tried top to bottom select what PORT and SUB select. -/
theorem selectRow_eq_selectByPort (sel : BitVec 12) : selectRow sel = selectByPort sel := by
  have r : ∀ (k : OpKind) (a c : BitVec 4) (b d : BitVec 8) (z : Bool) (pat mask : BitVec 12),
      pat = c ++ d → mask = a ++ b →
      MapRow.selects { kind := k, pattern := pat, mask := mask, subNonzero := z } sel =
        (decide (selPort sel &&& a = c ∧ selSub sel &&& b = d) && (!z || !decide (selSub sel = 0#8))) := by
    rintro k a c b d z pat mask rfl rfl
    show ((sel &&& (a ++ b) == c ++ d) && (!z || !decide (selSub sel = 0#8))) = _
    congr 1
    rw [Bool.eq_iff_iff, beq_iff_eq, decide_eq_true_iff]
    exact and_eq_append_iff sel a c b d
  have hq : selSub sel &&& 0xFF#8 = selSub sel := BitVec.and_allOnes
  have h0 : selSub sel &&& 0x00#8 = 0#8 := BitVec.and_zero
  unfold selectRow operationMap selectByPort
  simp only [List.find?_cons, List.find?_nil]
  rw [r .aeCfg 0xF#4 0x0#4 0xFF#8 0x00#8 false 0x000#12 0xFFF#12 rfl rfl,
    r .aeDat 0xF#4 0x1#4 0xFF#8 0x00#8 false 0x100#12 0xFFF#12 rfl rfl,
    r .aePre 0xF#4 0x1#4 0x00#8 0x00#8 true 0x100#12 0xF00#12 rfl rfl,
    r .hpBit 0xF#4 0x2#4 0xFE#8 0x00#8 false 0x200#12 0xFFE#12 rfl rfl,
    r .hpSoft 0xF#4 0x3#4 0xFF#8 0x00#8 false 0x300#12 0xFFF#12 rfl rfl,
    r .hpFmt 0xF#4 0x4#4 0xFF#8 0x00#8 false 0x400#12 0xFFF#12 rfl rfl,
    r .hpQnbits 0xF#4 0x5#4 0xFF#8 0x00#8 false 0x500#12 0xFFF#12 rfl rfl,
    r .hpQnbytes 0xF#4 0x5#4 0xFF#8 0x01#8 false 0x501#12 0xFFF#12 rfl rfl,
    r .hpCfg 0xF#4 0x6#4 0xFF#8 0x00#8 false 0x600#12 0xFFF#12 rfl rfl, hq, h0]
  have hp : ∀ p : BitVec 4, p = 0#4 ∨ p = 1#4 ∨ p = 2#4 ∨ p = 3#4 ∨ p = 4#4 ∨ p = 5#4 ∨ p = 6#4 ∨
      p = 7#4 ∨ p = 8#4 ∨ p = 9#4 ∨ p = 10#4 ∨ p = 11#4 ∨ p = 12#4 ∨ p = 13#4 ∨ p = 14#4 ∨ p = 15#4 := by decide
  rcases hp (selPort sel) with e | e | e | e | e | e | e | e | e | e | e | e | e | e | e | e <;>
    rw [e] <;> clear r hp <;> simp only [and_fe_eq_zero] <;> by_cases a : selSub sel = 0#8 <;>
    by_cases b : selSub sel = 1#8 <;> by_cases c : (selSub sel).toNat < 2 <;> simp [a, b, c]
end Sys2Proof
end

