-- ==== Sys2Proof/Laws/Exec.lean ====
section
/-! SUPPORT. What any operation can answer: a next state that leaves the presented operations and the report alone, or a refusal
of the spec. -/

namespace Sys2Proof.Machine

/-- A tuple operation's body runs, or the operation is refused. -/
theorem withTuple_cases (tuple : Option Tuple) (s : State) (body : Tuple → State) :
    (∃ t, tuple = some t ∧ withTuple tuple s body = .next (body t)) ∨
      ∃ c, withTuple tuple s body = .refused (.rf c) := by
  unfold withTuple
  split
  · exact .inr ⟨_, rfl⟩
  · split
    · exact .inr ⟨_, rfl⟩
    · rename_i t h
      refine .inl ⟨t, ?_, rfl⟩
      unfold takeTuple at h
      split at h
      · split at h <;> cases h
        rfl
      · cases h

/-- The data path touches neither the presented operations nor the report nor the other unit. -/
theorem runDataPath_frame (P : Params) (t : Tuple) (flag : BitVec 8) (s : State) :
    runDataPath P t flag s =
      { s with ae := (runDataPath P t flag s).ae, aePort := (runDataPath P t flag s).aePort } := by
  rcases runDataPath_cases P t flag s with ⟨_, _, h⟩ | ⟨_, _, _, h⟩ <;> rw [h] <;> rfl

/-- Every operation answers a next state or a refusal of the spec (R185). -/
theorem exec_next_or_refused (i : Instr) (s : State) :
    (∃ t, exec i s = .next t ∧ t.pending = s.pending ∧ t.report = s.report) ∨ ∃ c, exec i s = .refused (.rf c) := by
  cases i with
  | aeCfg c =>
    simp only [exec, execAeCfg, aeCfg]
    split
    · exact .inr ⟨_, rfl⟩
    · split
      · exact .inr ⟨_, rfl⟩
      · refine .inl ⟨_, rfl, ?_, ?_⟩ <;> unfold runAeCfg <;> split <;> rfl
  | aeDat t =>
    rcases withTuple_cases t s _ with ⟨u, -, h⟩ | h
    · refine .inl ⟨_, h, ?_, ?_⟩ <;> split <;> first | rfl | rw [runDataPath_frame]
    · exact .inr h
  | aePre f t =>
    rcases withTuple_cases t s _ with ⟨u, -, h⟩ | h
    · exact .inl ⟨_, h, by rw [runDataPath_frame]; rfl, by rw [runDataPath_frame]; rfl⟩
    · exact .inr h
  | hpBit b =>
    simp only [exec, execHpBit, hpBit]
    split
    · exact .inr ⟨_, rfl⟩
    · exact .inl ⟨_, rfl, rfl, rfl⟩
  | hpSoft x =>
    simp only [exec, execHpSoft, hpSoft]
    split
    · exact .inr ⟨_, rfl⟩
    · split
      · exact .inr ⟨_, rfl⟩
      · exact .inl ⟨_, rfl, rfl, rfl⟩
  | hpFmt x =>
    simp only [exec, execHpFmt]
    split
    · exact .inr ⟨_, rfl⟩
    · split
      · exact .inr ⟨_, rfl⟩
      · exact .inl ⟨_, rfl, rfl, rfl⟩
  | hpQnbits =>
    simp only [exec, execHpQnbits, presentSize]
    split
    · exact .inr ⟨_, rfl⟩
    · exact .inl ⟨_, rfl, rfl, rfl⟩
  | hpQnbytes =>
    simp only [exec, execHpQnbytes, presentSize]
    split
    · exact .inr ⟨_, rfl⟩
    · exact .inl ⟨_, rfl, rfl, rfl⟩
  | hpCfg c =>
    simp only [exec, execHpCfg]
    split
    · exact .inr ⟨_, rfl⟩
    · split
      · exact .inr ⟨_, rfl⟩
      · split
        · exact .inr ⟨_, rfl⟩
        · refine .inl ⟨_, rfl, ?_, ?_⟩ <;> unfold runHpCfg <;> split <;> rfl

end Sys2Proof.Machine
end

