-- ==== Sys2Proof/Laws/Header.lean ====
section
/-! SUPPORT. What the header unit's shared operations can do: the cases of a bit step, the shift register, the sizes of a
formatted header, and the order of configuration checks. -/

namespace Sys2Proof.Machine

/-- Everything a bit step can do to the unit (R136 to R148). -/
theorem stepBit_cases (P : Params) (b : Bool) (u : HpUnit) :
    (u.state = .search ∧ codeMatches u.acode u.mask u.thresh (shiftIn u.sreg b) = false ∧
      stepBit P b u = ({ u with count := u.count + 1#64, sreg := shiftIn u.sreg b }, none)) ∨
    (u.state = .search ∧ codeMatches u.acode u.mask u.thresh (shiftIn u.sreg b) = true ∧
      stepBit P b u = ({ u with count := u.count + 1#64, sreg := shiftIn u.sreg b, state := .header, hreg := 0#64,
                                hcount := 0 }, none)) ∨
    (u.state = .header ∧ u.hcount + 1 ≠ u.hdrBody ∧
      stepBit P b u = ({ u with count := u.count + 1#64, hreg := shiftIn u.hreg b, hcount := u.hcount + 1 }, none)) ∨
    (u.state = .header ∧ u.hcount + 1 = u.hdrBody ∧
      stepBit P b u = completeHeader P { u with count := u.count + 1#64, hreg := shiftIn u.hreg b,
                                                hcount := u.hcount + 1 }) := by
  cases hs : u.state with
  | search =>
    cases hm : codeMatches u.acode u.mask u.thresh (shiftIn u.sreg b) with
    | false => exact .inl ⟨rfl, rfl, by simp [stepBit, hs, searchStep, hm]⟩
    | true => exact .inr (.inl ⟨rfl, rfl, by simp [stepBit, hs, searchStep, hm]⟩)
  | header =>
    by_cases hb : u.hcount + 1 = u.hdrBody
    · exact .inr (.inr (.inr ⟨rfl, hb, by simp [stepBit, hs, headerStep, hb]⟩))
    · exact .inr (.inr (.inl ⟨rfl, hb, by simp [stepBit, hs, headerStep, hb]⟩))

/-- What a completed header leaves: `SEARCH`, no body bits counted, the configuration, the counters and `hreg` as they were
(R147, R148). -/
theorem completeHeader_fst (P : Params) (u : HpUnit) :
    ∃ sreg bps, (completeHeader P u).1 = { u with state := .search, hcount := 0, sreg := sreg, bps := bps } := by
  cases u with
  | mk variant =>
    unfold completeHeader returnToSearch
    split
    · cases variant <;> cases P.sregOnReturn <;> exact ⟨_, _, rfl⟩
    · cases P.sregOnReturn <;> exact ⟨_, _, rfl⟩

/-- The shift register as a number: the bit that leaves at the top is lost. -/
theorem shiftIn_toNat (v : BitVec 64) (b : Bool) : (shiftIn v b).toNat = (2 * v.toNat + b.toNat) % 2 ^ 64 := by
  have hb : b.toNat < 2 := by cases b <;> decide
  have key : shiftIn v b = v <<< 1 + BitVec.ofNat 64 b.toNat := by
    unfold shiftIn
    rw [BitVec.add_eq_or_of_and_eq_zero]
    ext i hi
    cases b
    · simp
    · simp [BitVec.getElem_shiftLeft, BitVec.getElem_one]; intros; omega
  rw [key, BitVec.toNat_add, BitVec.toNat_shiftLeft, BitVec.toNat_ofNat]
  simp [Nat.shiftLeft_eq, Nat.mul_comm]

/-- A bit shifted in, position by position. -/
theorem shiftIn_getLsbD (v : BitVec 64) (b : Bool) (i : Nat) :
    (shiftIn v b).getLsbD i = (if i = 0 then b else decide (i < 64) && v.getLsbD (i - 1)) := by
  unfold shiftIn
  cases i with
  | zero => cases b <;> simp
  | succ k => cases b <;> simp [BitVec.getLsbD_one]

/-- The bits of the mask (R39). -/
theorem maskOf_getLsbD {n : Nat} (hn : n ≤ 64) (i : Nat) : (maskOf n).getLsbD i = decide (i < n) := by
  unfold maskOf
  rw [BitVec.getLsbD_ofNat, Nat.testBit_two_pow_sub_one]
  by_cases h : i < n
  · simp [h]; omega
  · simp [h]

/-- The access-code bytes are `L_ac/8` in number (R165). -/
theorem codeBytes_length (n : Nat) (acode : BitVec 64) : (codeBytes n acode).length = n / 8 := by simp [codeBytes]

/-- A header is as long as its variant says (R92, R93). -/
theorem headerBytes_length (u : HpUnit) (n : BitVec 32) :
    (headerBytes u n).length = u.acLen.toNat / 8 + 2 * fieldCount u.variant := by
  unfold headerBytes
  cases u.variant <;> simp [codeBytes_length, fieldBytes, fieldCount]

/-- A byte string has eight stream bits a byte (R65). -/
theorem bytesBits_length (bytes : List (BitVec 8)) : (bytesBits bytes).length = 8 * bytes.length := by
  induction bytes with
  | nil => rfl
  | cons v vs ih =>
    simp only [bytesBits, List.flatMap_cons, List.length_append] at *
    simp [ih, byteBits]; omega

/-- No check fails exactly when every check holds. -/
theorem firstFailing_eq_none {q : Nat} {cs : List Bool} : firstFailing q cs = none ↔ ∀ c ∈ cs, c = true := by
  induction cs generalizing q with
  | nil => simp [firstFailing]
  | cons c cs ih => cases c <;> simp [firstFailing, ih]

/-- The check reported is the first that does not hold. -/
theorem firstFailing_eq_some {q k : Nat} {cs : List Bool} :
    firstFailing q cs = some k ↔ q ≤ k ∧ cs[k - q]? = some false ∧ ∀ j < k - q, cs[j]? = some true := by
  induction cs generalizing q with
  | nil => simp [firstFailing]
  | cons c cs ih =>
    cases c with
    | false =>
      simp only [firstFailing, Option.some.injEq]
      constructor
      · rintro rfl; simp
      · rintro ⟨h1, h2, h3⟩
        rcases Nat.lt_or_eq_of_le h1 with h | h
        · have := h3 0 (by omega); simp at this
        · exact h
    | true =>
      simp only [firstFailing, ih]
      constructor
      · rintro ⟨h1, h2, h3⟩
        refine ⟨by omega, ?_, ?_⟩
        · rw [show k - q = (k - (q + 1)) + 1 by omega]; simpa using h2
        · intro j hj
          cases j with
          | zero => rfl
          | succ j => simpa using h3 j (by omega)
      · rintro ⟨h1, h2, h3⟩
        rcases Nat.lt_or_eq_of_le h1 with h | h
        · refine ⟨h, ?_, fun j hj => ?_⟩
          · rw [show k - q = (k - (q + 1)) + 1 by omega] at h2; simpa using h2
          · simpa using h3 (j + 1) (by omega)
        · subst h; simp at h2

end Sys2Proof.Machine
end

