-- ==== Sys2Proof/Laws/PerInstr.lean ====
section
/-! SUPPORT. The family `Selector`: the encoder writes a selector word of the operation's own row (R81), by constructor. -/

namespace Sys2Proof.Laws.Selector

/-- The selector word of a well-formed operation selects its row. -/
def Statement (i : Instr) : Prop := i.wellFormed = true → selectRow (encode i).sel = some i.kind

theorem aeCfg (cfg : Option AeCfgOperand) : Statement (.aeCfg cfg) := fun _ => by
  show selectRow 0x000#12 = some .aeCfg; decide
theorem aeDat (tuple : Option Tuple) : Statement (.aeDat tuple) := fun _ => by
  show selectRow 0x100#12 = some .aeDat; decide
theorem aePre (flag : BitVec 8) (tuple : Option Tuple) : Statement (.aePre flag tuple) := fun h => by
  have hf : flag ≠ 0#8 := by
    intro h0; subst h0; simp [Instr.wellFormed, Instr.flagNonzero] at h
  have all : ∀ n : Fin 256, BitVec.ofFin n ≠ 0#8 → selectRow (0x1#4 ++ (BitVec.ofFin n : BitVec 8)) = some .aePre := by
    decide +kernel
  exact all flag.toFin hf
theorem hpBit (b : Bool) : Statement (.hpBit b) := fun _ => by
  show selectRow (if b then 0x201#12 else 0x200#12) = some .hpBit; cases b <;> decide
theorem hpSoft (x : Option F32) : Statement (.hpSoft x) := fun _ => by
  show selectRow 0x300#12 = some .hpSoft; decide
theorem hpFmt (nbytes : Option (BitVec 32)) : Statement (.hpFmt nbytes) := fun _ => by
  show selectRow 0x400#12 = some .hpFmt; decide
theorem hpQnbits : Statement .hpQnbits := fun _ => by
  show selectRow 0x500#12 = some .hpQnbits; decide
theorem hpQnbytes : Statement .hpQnbytes := fun _ => by
  show selectRow 0x501#12 = some .hpQnbytes; decide
theorem hpCfg (cfg : Option HpCfgOperand) : Statement (.hpCfg cfg) := fun _ => by
  show selectRow 0x600#12 = some .hpCfg; decide

end Sys2Proof.Laws.Selector
end

