-- ==== Sys2Proof/Tests/Reference.lean ====
section
/-! SUPPORT. A reference numerics record, the spec's `NUM_RNE` (R16; 95_test_vectors.md section 1), for the tests only: binary32
round to nearest even by exact Nat arithmetic, the textbook complex formulas, quarter-turn phases. A NaN, infinite or
non-quarter-turn operand answers NaN. No definition of the model uses it. -/

open Sys2Proof.Machine

namespace Sys2Proof.Tests

/-- A quiet NaN. -/
def qnan : F32 := 0x7FC00000#32

/-- The sign of a binary32 value. -/
def negative (x : F32) : Bool := x.getLsbD 31

/-- The exponent field is all ones. -/
def special (x : F32) : Bool := x.extractLsb' 23 8 == 0xFF#8

/-- The magnitude of a finite value in units of 2^-149. -/
def units (x : F32) : Nat :=
  let e := (x.extractLsb' 23 8).toNat
  let f := (x.extractLsb' 0 23).toNat
  if e = 0 then f else (2 ^ 23 + f) * 2 ^ (e - 1)

/-- The value of a finite operand in units of 2^-149; an infinity stands above every finite value. -/
def value (x : F32) : Int := if negative x then -(units x : Int) else units x

/-- `num / den` units of 2^-149, rounded to nearest even, with a sign. -/
def roundUnits (neg : Bool) (num den : Nat) : F32 :=
  let len := Nat.log2 (num / den) + 1
  let shift := if len ≤ 24 then 0 else len - 24
  let d := den * 2 ^ shift
  let m := num / d
  let r := num % d
  let up := 2 * r > d || (2 * r == d && m % 2 == 1)
  let bits := shift * 2 ^ 23 + m + (if up then 1 else 0)
  let sign := if neg then 2 ^ 31 else 0
  BitVec.ofNat 32 (sign + (if bits < 255 * 2 ^ 23 then bits else 255 * 2 ^ 23))

/-- An integer number of `1/den` units, rounded. -/
def roundInt (v : Int) (den : Nat) : F32 := roundUnits (v < 0) v.natAbs den

def radd (a b : F32) : F32 := if special a || special b then qnan else roundInt (value a + value b) 1
def rneg (a : F32) : F32 := a ^^^ 0x80000000#32
def rmul (a b : F32) : F32 := if special a || special b then qnan else roundInt (value a * value b) (2 ^ 149)
def rdiv (a b : F32) : F32 :=
  if special a || special b then qnan
  else if units b = 0 then (if units a = 0 then qnan else 0x7F800000#32)
  else roundUnits (negative a != negative b) (units a * 2 ^ 149) (units b)

/-- The integer square root, one bit at a time. -/
def sqrtFrom (x : Nat) : Nat → Nat → Nat
  | 0, r => r
  | k + 1, r => let r' := r + 2 ^ k; sqrtFrom x k (if r' * r' ≤ x then r' else r)

def rsqrt (a : F32) : F32 :=
  if special a || negative a then qnan else
    let x := units a * 2 ^ 149
    let r := sqrtFrom x 214 0
    roundUnits false (2 * r + (if r * r = x then 0 else 1)) 2

def rcnorm2 (z : C32) : F32 := radd (rmul z.re z.re) (rmul z.im z.im)

/-- `exp(-j * q * pi/2)`. -/
def quarter (q : Int) : C32 :=
  match (q % 4).toNat with
  | 0 => ⟨F32.one, F32.posZero⟩
  | 1 => ⟨F32.posZero, rneg F32.one⟩
  | 2 => ⟨rneg F32.one, F32.posZero⟩
  | _ => ⟨F32.posZero, F32.one⟩

def rphase (d : Int) (n cp f : Nat) : C32 :=
  let a := 4 * d * cp * n
  if a % (f : Int) = 0 then quarter (a / f) else ⟨qnan, qnan⟩

/-- The reference numerics. -/
def rneNum : Numerics where
  fadd := radd
  fmul := rmul
  fdiv := rdiv
  fgt a b := !isNaN a && !isNaN b && value b < value a
  lt0 x := negative x && units x != 0
  cadd z w := ⟨radd z.re w.re, radd z.im w.im⟩
  csub z w := ⟨radd z.re (rneg w.re), radd z.im (rneg w.im)⟩
  cmul z w := ⟨radd (rmul z.re w.re) (rneg (rmul z.im w.im)), radd (rmul z.re w.im) (rmul z.im w.re)⟩
  cdiv z w :=
    let d := rcnorm2 w
    ⟨rdiv (radd (rmul z.re w.re) (rmul z.im w.im)) d, rdiv (radd (rmul z.im w.re) (rneg (rmul z.re w.im))) d⟩
  cdivr z a := ⟨rdiv z.re a, rdiv z.im a⟩
  cabs z := rsqrt (rcnorm2 z)
  cnorm2 := rcnorm2
  phase := rphase
  phaseTab h n m cp f := rphase ((h : Int) - m) n cp f
  finpos a := !special a && !negative a && units a != 0

/-- Reference parameters: `NUM_RNE`, a correlator register policy, and maxima that allow the spec's vectors. -/
def refParams (policy : SregPolicy) : Params where
  num := rneNum
  sregOnReturn := policy
  nExtra := 7
  fExtra := 60
  oExtra := 63
  mExtra := 7
  cpMax := 16
  drawC32 n := ⟨BitVec.ofNat 32 n, qnan⟩
  drawBit n := n % 2 == 0
  drawHyp n := n
  noValue := ⟨qnan, qnan⟩

/-- A small integer as a binary32 value. -/
def int32 (v : Int) : F32 := roundInt (v * 2 ^ 149) 1

/-- A complex sample with small integer parts. -/
def cint (re im : Int) : C32 := ⟨int32 re, int32 im⟩

/-- The same value, the sign of a zero not asserted (R16). -/
def sameF (a b : F32) : Bool := a == b || (units a == 0 && units b == 0)

/-- The same sample, the sign of a zero not asserted. -/
def sameC (z w : C32) : Bool := sameF z.re w.re && sameF z.im w.im

/-- The same vector, the sign of a zero not asserted. -/
def sameV (a b : List C32) : Bool := a.length == b.length && (a.zip b).all fun p => sameC p.1 p.2

end Sys2Proof.Tests
end

