-- ==== Sys2Proof/Tests/Slice0.lean ====
section
/-! SUPPORT. Tests: the form checks, one selector word of every row written out from the spec's encoding, steps whose expected
results are the spec's test vectors (95_test_vectors.md), and, for every statement with hypotheses, a state that meets them. -/

open Sys2Proof.Machine

namespace Sys2Proof.Tests

/-! ### Form checks -/

theorem test_absent_operand_is_ill_formed :
    (Instr.aeCfg none).operandsPresent = false ∧ (Instr.aeDat none).operandsPresent = false ∧
    (Instr.aePre 1#8 none).operandsPresent = false ∧ (Instr.hpSoft none).operandsPresent = false ∧
    (Instr.hpFmt none).operandsPresent = false ∧ (Instr.hpCfg none).wellFormed = false := by decide
theorem test_zero_flag_is_ill_formed : (Instr.aePre 0#8 (some [])).flagNonzero = false ∧
    (Instr.aePre 0#8 (some [])).wellFormed = false := by decide
theorem test_well_formed : (Instr.aePre 0xFF#8 (some [[C32.zero]])).wellFormed = true ∧ (Instr.hpBit true).wellFormed = true := by
  decide

/-! ### Decoding: V-SEL-1, and a payload of each format -/

theorem test_decode_aeCfg : decode ⟨0b000000000000#12, [[2, 8, 1, 3, 1, 0, 1, 0x3F80000000000000]]⟩ =
    .ok (.aeCfg (some { nch := 2, fftLen := 8, occ := 1, cpLen := 3, maxShift := 1, phaseSrc := .direct,
                        ksym := [⟨F32.posZero, F32.one⟩] })) := by decide
theorem test_decode_aeDat : decode ⟨0b000100000000#12, [[0xBF8000003F800000], [0]]⟩ =
    .ok (.aeDat (some [[⟨0x3F800000#32, 0xBF800000#32⟩], [C32.zero]])) := by decide
theorem test_decode_aePre : decode ⟨0b000111111111#12, [[]]⟩ = .ok (.aePre 0xFF#8 (some [[]])) ∧
    decode ⟨0b000100000001#12, []⟩ = .ok (.aePre 0x01#8 (some [])) := by decide
theorem test_decode_hpBit : decode ⟨0b001000000000#12, []⟩ = .ok (.hpBit false) ∧
    decode ⟨0b001000000001#12, []⟩ = .ok (.hpBit true) := by decide
theorem test_decode_hpSoft : decode ⟨0b001100000000#12, [[0xBF800000]]⟩ = .ok (.hpSoft (some 0xBF800000#32)) := by decide
theorem test_decode_hpFmt : decode ⟨0b010000000000#12, [[70000]]⟩ = .ok (.hpFmt (some 70000#32)) ∧
    decode ⟨0b010000000000#12, [[4294967296]]⟩ = .ok (.hpFmt none) := by decide
theorem test_decode_queries : decode ⟨0b010100000000#12, []⟩ = .ok .hpQnbits ∧
    decode ⟨0b010100000001#12, []⟩ = .ok .hpQnbytes := by decide
theorem test_decode_hpCfg : decode ⟨0b011000000000#12, [[2, 72, 0xAAAA, 65, 65536, 1]]⟩ =
    .ok (.hpCfg (some { variant := 2#2, acLen := 72, pattern := 0xAAAA#64, thresh := 65, bpsInit := 65536,
                        scramble := true })) := by decide
theorem test_decode_reserved : ([0x001#12, 0x202#12, 0x380#12, 0x401#12, 0x502#12, 0x6FF#12].map fun sel =>
      decode ⟨sel, []⟩) = List.replicate 6 (.error .reservedSub) ∧
    decode ⟨0x700#12, []⟩ = .error .reservedPort ∧ decode ⟨0xFFF#12, []⟩ = .error .reservedPort := by decide
theorem test_decode_short_payload : decode ⟨0x000#12, [[1, 4, 1, 0, 1, 0, 2, 0]]⟩ = .ok (.aeCfg none) ∧
    decode ⟨0x300#12, []⟩ = .ok (.hpSoft none) ∧ decode ⟨0x600#12, [[0, 16]]⟩ = .ok (.hpCfg none) := by decide
theorem test_table_word : decodeTableWord 16 0x0100 = some (.aeDat (some [])) ∧ decodeTableWord 16 0x0201 = some (.hpBit true) ∧
    decodeTableWord 16 0x0700 = none := by decide
theorem test_access_code_as_bits : (hpCfgOfBits 0#2 [true, false, true, false, true, false, true, false, true, false, true,
    false, true, false, true, false] 0 0 false).pattern = 0xAAAA#64 := by decide

/-! ### Small machines -/

/-- The state after an operation, or the state before it. -/
def after (o : Host.Outcome State Fault Refusal) (s : State) : State :=
  match o with
  | .next t => t
  | .fault _ => s
  | .refused _ => s

/-- The refusal of an operation, if it is refused. -/
def refusalOf : Host.Outcome State Fault Refusal → Option Refusal
  | .next _ => none
  | .fault _ => none
  | .refused r => some r

/-- A known symbol or a symbol's carriers with real integer parts. -/
def reals (l : List Int) : List C32 := l.map (cint · 0)

/-- The common configuration of the AE vectors (V-CFG-1), with a cyclic prefix. -/
def commonAe (cp : Nat) (src : PhaseSrc) : AeCfgOperand where
  nch := 1
  fftLen := 16
  occ := 8
  cpLen := cp
  maxShift := 2
  phaseSrc := src
  ksym := reals [1, 0, -1, 0, 1, 0, -1, 0]

/-- Sixteen samples, the carriers starting at sample `n`. -/
def symbolAt (n : Nat) (carriers : List C32) : Tuple :=
  [List.replicate n C32.zero ++ carriers ++ List.replicate (16 - n - carriers.length) C32.zero]

def ref : Params := refParams .hold

/-- The engine after V-CFG-1. -/
def engine : State := after (aeCfg ref (some (commonAe 0 .direct)) State.reset) State.reset

/-- The engine after the preamble of V-AE-8, which leaves the offset 1, and its tuple. -/
def tuple8 : Tuple := symbolAt 5 [cint 0 (-1), cint 0 0, cint 0 1, cint 0 0, cint 0 (-1), cint 0 0, cint 0 1, cint 0 0]
def engine8 : State := after (aeCfg ref (some (commonAe 4 .direct)) State.reset) State.reset
def acquired8 : State := after (aePre ref (some tuple8) engine8) engine8

/-- The access code and threshold of the HP vectors (V-CFG-2). -/
def commonHp (v : BitVec 2) (len : Nat) (pattern : BitVec 64) (thresh bps : Nat) : HpCfgOperand where
  variant := v
  acLen := len
  pattern := pattern
  thresh := thresh
  bpsInit := bps
  scramble := false

/-- The parser after an `HP.CFG`. -/
def parser (v : BitVec 2) (len : Nat) (pattern : BitVec 64) (thresh bps : Nat) : State :=
  after (execHpCfg (some (commonHp v len pattern thresh bps)) State.reset) State.reset

/-- The state with other contents of the parser's machine. -/
def inHeader (s : State) (hreg : BitVec 64) (hcount : Nat) (count sreg : BitVec 64) : State :=
  { s with hp := { s.hp with state := .header, hreg := hreg, hcount := hcount, count := count, sreg := sreg } }

/-! ### Vectors of AE -/

theorem test_aeCfg_vcfg1 : engine.ae.zerosLeft = 4 ∧ engine.ae.kdiff = [4, 0, 4, 0, 4, 0].map int32 ∧ engine.ae.cfg = true := by
  decide +kernel
theorem test_aeCfg_vcfg3 :
    after (aeCfg ref (some { commonAe 0 .direct with ksym := reals [1, 0, 0, 0, 1, 0, -1, 0] }) State.reset) State.reset =
      { State.reset with ae := { AeUnit.powerOn with fault := .eCfg }, aePort := .fault ⟨.ae, .eCfg, .check 7⟩ } := by
  decide +kernel
/-- V-AE-8: the preamble of offset 1 through a cyclic prefix. -/
theorem test_aePre_vae8 : acquired8.ae.coarseFreq = 1 ∧ acquired8.ae.phaseCount = 2 ∧
    (match acquired8.aePort with
      | .tuple out flag => sameV out (reals [1, 0, -1, 0, 1, 0, -1, 0]) && flag == 1#8
      | .idle => false
      | .fault _ => false) = true := by decide +kernel
/-- V-AE-6: the interpolated tap 1 is zero. -/
theorem test_aePre_vae6 : (after (aePre ref (some (symbolAt 4 (reals [1, 0, 1, 0, 1, 0, -1, 0]))) engine) engine).aePort =
    .fault ⟨.ae, .eNum, .tap 1 0⟩ := by decide +kernel
/-- V-AE-8, its second data tuple: `n = 3`. -/
theorem test_aeDat_vae8 :
    (match (after (aeDat ref (some (symbolAt 5 (reals [1, 2, 3, 4, 5, 6, 7, 8])))
        { acquired8 with ae := { acquired8.ae with phaseCount := 3 } }) engine8).aePort with
      | .tuple out flag => sameV out ([-1, -2, -3, -4, -5, -6, -7, -8].map (cint 0)) && flag == 0#8
      | .idle => false
      | .fault _ => false) = true := by decide +kernel
/-- V-AE-9: a symbol of 15 samples. -/
theorem test_aeDat_vae9 : refusalOf (aeDat ref (some [List.replicate 15 C32.zero]) engine) = some (.rf .badOperand) := by
  decide +kernel
/-- V-LUT-1. -/
theorem test_phase_vlut1 : sameC (rneNum.phaseTab 3 1 2 4 16) (cint 0 (-1)) = true ∧
    sameC (phi ref acquired8.ae (-1) 999) (cint 0 (-1)) = true := by decide +kernel

/-! ### Vectors of HP -/

theorem test_hpCfg_vcfg2 : (parser 1#2 64 0x0123456789ABCDEF#64 0 0).hp.mask = BitVec.allOnes 64 ∧
    (parser 1#2 64 0x0123456789ABCDEF#64 0 0).hp.hdrNbits = 128 ∧ (parser 0#2 16 0x1AAAA#64 0 0).hp.acode = 0xAAAA#64 := by decide
theorem test_hpCfg_vcfg3 : (after (execHpCfg (some (commonHp 0#2 0 0#64 0 0)) State.reset) State.reset).hpPort =
      .fault ⟨.hp, .eCfg, .check 2⟩ ∧
    refusalOf (execHpCfg (some (commonHp 2#2 12 0xAAA#64 0 0)) State.reset) = some (.rf .unsupported) := by decide
/-- V-HP-4: the bit 16 of `AA AA` against `0xAAAB` with threshold 1. -/
theorem test_hpBit_vhp4 : (after (execHpBit false
    { parser 0#2 16 0xAAAB#64 1 0 with hp := { (parser 0#2 16 0xAAAB#64 1 0).hp with sreg := 0x5555#64, count := 15#64 } })
      State.reset).hp.state = .header := by decide
/-- V-HP-2: the last bit of the counter header. -/
theorem test_hpBit_vhp2 :
    (after (hpBit ref false (inHeader (parser 1#2 16 0xAAAA#64 0 9) 0x0032003200010000#64 63 79#64 0xAAAA#64)) State.reset).hpPort =
      .desc (.counter 80#64 800#32 2#16 0#16) ∧
    (after (hpBit ref false (inHeader (parser 1#2 16 0xAAAA#64 0 9) 0x0032003200010000#64 63 79#64 0xAAAA#64)) State.reset).hp.bps =
      2#16 := by decide +kernel
/-- V-HP-9: the slicer. -/
theorem test_hpSoft_vhp9 : ([0xBF800000#32, 0x80000001#32, 0xFF800000#32, 0x00000000#32, 0x00000001#32, 0x7F800000#32].map
    fun x => (slice rneNum true x, slice rneNum false x)) =
      [(true, true), (true, true), (true, true), (false, false), (false, false), (false, false)] := by decide +kernel
/-- V-HP-9: NaN and `-0.0` step a drawn bit. -/
theorem test_hpSoft_drawn : (after (hpSoft ref (some 0x7FC00000#32) (parser 0#2 16 0xAAAA#64 0 0)) State.reset).hp.count = 1#64 ∧
    sliceOpen F32.negZero = true := by decide +kernel
/-- V-FMT-1 and the 65536th call of V-FMT-5. -/
theorem test_hpFmt_vfmt1 : (after (execHpFmt (some 70000#32) (parser 0#2 16 0xAAAA#64 0 0)) State.reset).hpPort =
    .hdr [0xAA#8, 0xAA#8, 0x11#8, 0x70#8, 0x11#8, 0x70#8] true := by decide
theorem test_hpFmt_vfmt5 :
    let s := { parser 1#2 16 0xAAAA#64 0 2 with hp := { (parser 1#2 16 0xAAAA#64 0 2).hp with counter := 0xFFFF#16 } }
    (after (execHpFmt (some 1#32) s) s).hpPort =
      .hdr [0xAA#8, 0xAA#8, 0x00#8, 0x01#8, 0x00#8, 0x01#8, 0x00#8, 0x02#8, 0xFF#8, 0xFF#8] true ∧
    (after (execHpFmt (some 1#32) s) s).hp.counter = 0#16 := by decide
/-- V-FMT-3. -/
theorem test_hpQnbits_vfmt3 : execHpQnbits (parser 0#2 8 0xA5#64 0 0) =
    .next { parser 0#2 8 0xA5#64 0 0 with hpPort := .size 40 } := rfl
theorem test_hpQnbytes_vfmt3 : execHpQnbytes (parser 1#2 64 0x0123456789ABCDEF#64 0 0x1234) =
    .next { parser 1#2 64 0x0123456789ABCDEF#64 0 0x1234 with hpPort := .size 16 } := rfl
/-- A table word presented to the machine right after power-on is the operation its next step takes. -/
theorem test_fetch_word : step (State.reset.withFetchWord 16 0x0201) =
    .next { State.reset with report := some .unconfigured } := rfl

end Sys2Proof.Tests
end

