-- ==== Sys2Proof/Tests/Witness.lean ====
section
/-! SUPPORT. For every statement with hypotheses, states and operands that meet all of them together, at the boundary values of
its clauses. A witness about the machine itself uses an engine whose legality rests on no value of `Config.params`; a witness
that needs arithmetic uses the reference numerics. -/

open Sys2Proof.Machine

namespace Sys2Proof.Tests

/-! ### States -/

/-- The smallest legal engine: one antenna, one carrier of four, half-width 1. -/
def smallAe : AeUnit where
  nch := 1
  fftLen := 4
  occ := 1
  cpLen := 0
  maxShift := 1
  ksym := [⟨F32.one, F32.posZero⟩]
  phaseSrc := .direct
  zerosLeft := 2
  kdiff := []
  lut := none
  coarseFreq := 0
  phaseCount := 1
  taps := []
  calibrated := false
  cfg := true
  fault := .none

/-- Its configuration operand. -/
def smallCfg (src : PhaseSrc) : AeCfgOperand where
  nch := 1
  fftLen := 4
  occ := 1
  cpLen := 0
  maxShift := 1
  phaseSrc := src
  ksym := [⟨F32.one, F32.posZero⟩]

/-- A parser of either variant, access code `0xAAAA`, as `HP.CFG` leaves it. -/
def parserUnit (v : Variant) (thresh : BitVec 7) : HpUnit where
  variant := v
  acLen := 16#7
  acode := 0xAAAA#64
  thresh := thresh
  bpsInit := 2#16
  scramble := false
  mask := 0xFFFF#64
  hdrNbits := 16 + 16 * fieldCount v
  hdrNbytes := 2 + 2 * fieldCount v
  hdrBody := 16 * fieldCount v
  state := .search
  sreg := 0#64
  hreg := 0#64
  hcount := 0
  count := 0#64
  bps := 2#16
  counter := 0#16
  cfg := true
  fault := .none

/-- A machine with that engine and such a parser. -/
def smallWith (v : Variant) (thresh : BitVec 7) : State := { State.reset with ae := smallAe, hp := parserUnit v thresh }

/-- The one of the default variant, threshold 0. -/
def small : State := smallWith .default 0#7

/-- A tuple it takes. -/
def ones4 : Tuple := [List.replicate 4 ⟨F32.one, F32.posZero⟩]

theorem small_engine_legal (P : Params) : smallAe.Configured P where
  nch_pos := by decide
  occ_pos := by decide
  occ_lt := by decide
  shift_pos := by decide
  shift_le := by decide
  zeros := by decide
  sizes := by simp [smallAe, Params.nMax, Params.fMax, Params.oMax, Params.mMax]
  ksym_length := rfl
  ksym_even := by decide
  kdiff_eq := rfl
  lut_eq := rfl
  coarse_range := by decide
  taps_shape := by decide
  taps_unwritten := by decide

/-- The same engine in LUT mode. -/
def lutAe (P : Params) : AeUnit := { smallAe with phaseSrc := .lut, lut := some (phaseLut P.num 1 0 4) }

theorem lut_engine_legal (P : Params) : (lutAe P).Configured P :=
  { small_engine_legal P with lut_eq := rfl }

theorem small_engine_inv (P : Params) : smallAe.Inv P where
  phase_range := by decide
  configured := fun _ => small_engine_legal P
  failed := by decide
  numeric := by decide

theorem parser_legal (v : Variant) {thresh : BitVec 7} (h : thresh.toNat ≤ 64) : (parserUnit v thresh).Configured :=
  ⟨by simp [parserUnit], by simp [parserUnit], h, rfl, show 0xFFFF#64 = maskOf 16 by decide,
    show 0xAAAA#64 &&& 0xFFFF#64 = 0xAAAA#64 by decide, by simp [parserUnit], by simp [parserUnit], rfl⟩

theorem parser_ready (v : Variant) (thresh : BitVec 7) : (smallWith v thresh).hpReady := ⟨rfl, rfl⟩

theorem small_legal (P : Params) : small.Inv P :=
  ⟨small_engine_inv P, by decide, by decide, by decide, fun _ => parser_legal _ (by decide), by decide, by decide⟩

/-! ### Decoding and the step -/

theorem test_hyp_ReservedSelectorsAreRefused : ∀ sel ∈ [0x001#12, 0x3FF#12, 0x401#12, 0x6FF#12, 0x202#12, 0x502#12, 0x700#12, 0xFFF#12],
    let port := sel.toNat / 256
    let sub := sel.toNat % 256
    (7 ≤ port ∨ (sub ≠ 0 ∧ (port = 0 ∨ port = 3 ∨ port = 4 ∨ port = 6)) ∨ (port = 2 ∧ 2 ≤ sub) ∨ (port = 5 ∧ 2 ≤ sub)) ∧
    (State.reset.presentedFirst ⟨sel, []⟩).pending = [⟨sel, []⟩] := by
  intro sel h
  simp only [List.mem_cons, List.not_mem_nil, or_false] at h
  rcases h with rfl | rfl | rfl | rfl | rfl | rfl | rfl | rfl <;> decide
theorem test_hyp_BitStringNamesTheSameCode : ∀ t, t < [true, false, true, true].length →
    (0xFB#64).getLsbD ([true, false, true, true].length - 1 - t) = [true, false, true, true].getD t false := by decide
theorem test_hyp_StepRunsDecodedOperation :
    (small.presentedFirst ⟨0x501#12, []⟩).pending = [⟨0x501#12, []⟩] ∧ decode ⟨0x501#12, []⟩ = .ok .hpQnbytes ∧
    exec .hpQnbytes small = .next { small with hpPort := .size 6 } ∧
    exec .hpQnbytes State.reset = .refused (.rf .unconfigured) := ⟨rfl, rfl, rfl, rfl⟩
theorem test_hyp_EveryStepKeepsLegalState : small.Inv Config.params ∧
    (small.presentedFirst ⟨0x501#12, []⟩).Inv Config.params ∧
    step (small.presentedFirst ⟨0x501#12, []⟩) = .next { small with hpPort := .size 6 } := by
  exact ⟨small_legal _, small_legal _, rfl⟩

/-! ### Refusals -/

theorem test_hyp_HaltedUnitRefusesEveryOperation :
    ({ small with ae := { smallAe with fault := .eNum } } : State).unitFault (Instr.aeCfg none).kind.unit ≠ .none ∧
    ({ small with hp := { small.hp with fault := .eCfg } } : State).unitFault (Instr.hpBit true).kind.unit ≠ .none := by decide
theorem test_hyp_UnconfiguredUnitRefusesOperations : ∀ i ∈ [Instr.aeDat none, Instr.hpQnbits],
    State.reset.unitFault i.kind.unit = .none ∧ State.reset.unitCfg i.kind.unit = false ∧ i.kind ≠ .aeCfg ∧ i.kind ≠ .hpCfg := by
  decide
theorem test_hyp_MalformedOperandIsRefused :
    (∀ i ∈ [Instr.aePre 1#8 none, Instr.hpSoft none, Instr.hpFmt none],
      i.operandsPresent = false ∧ small.unitFault i.kind.unit = .none ∧ small.unitCfg i.kind.unit = true) ∧
    ∀ i ∈ [Instr.aeCfg none, Instr.hpCfg none], i.operandsPresent = false ∧ State.reset.unitFault i.kind.unit = .none ∧
      (i.kind = .aeCfg ∨ i.kind = .hpCfg) := by decide
theorem test_hyp_TupleOfAnotherShapeIsRefused : small.aeReady ∧ ([] : Tuple).length ≠ small.ae.nch ∧
    ∃ sym ∈ ([List.replicate 3 C32.zero] : Tuple), sym.length ≠ small.ae.fftLen := ⟨⟨rfl, rfl⟩, by decide, by decide⟩
theorem test_hyp_UnsupportedFeaturesAreRefused : State.reset.hp.fault = .none ∧
    2 ≤ (commonHp 2#2 12 0#64 0 0).variant.toNat ∧ { commonHp 0#2 16 0#64 0 0 with scramble := true }.scramble = true := by
  decide

/-! ### Configuration -/

/-- Check 1 is the first to fail without antennas; check 8 above a maximum; check 9 when a difference overflows. -/
theorem test_hyp_FailedAeCheckHaltsEngine :
    let none1 : AeCfgOperand := { commonAe 0 .direct with nch := 0 }
    let large : AeCfgOperand := { commonAe 0 .direct with nch := 9 }
    let wide : AeCfgOperand := { commonAe 0 .direct with occ := 3, ksym := [⟨0x7F000000#32, 0#32⟩, C32.zero, ⟨0xFF000000#32, 0#32⟩] }
    State.reset.ae.fault = .none ∧ ¬ AeCheckHolds ref none1 1 ∧
    (¬ AeCheckHolds ref large 8 ∧ ∀ p, 1 ≤ p → p < 8 → AeCheckHolds ref large p) ∧
    (¬ AeCheckHolds ref wide 9 ∧ ∀ p, 1 ≤ p → p < 9 → AeCheckHolds ref wide p) := by
  intro none1 large wide
  have k7 : ∀ i, i < 8 → i % 2 = 0 → ((large.ksym[i]?).map isZeroC) = some false := by decide +kernel
  have w7 : ∀ i, i < 3 → i % 2 = 0 → ((wide.ksym[i]?).map isZeroC) = some false := by decide +kernel
  have h7 : AeCheckHolds ref large 7 := fun i z hi he hz => by simpa [hz] using k7 i hi he
  have v7 : AeCheckHolds ref wide 7 := fun i z hi he hz => by simpa [hz] using w7 i hi he
  have sub : ref.num.csub ⟨0x7F000000#32, 0#32⟩ ⟨0xFF000000#32, 0#32⟩ = ⟨0x7F800000#32, 0x00000000#32⟩ := by decide +kernel
  have norm : ref.num.cnorm2 ⟨0x7F800000#32, 0x00000000#32⟩ = qnan := by decide +kernel
  have w9 : ¬ (isZero qnan = true ∨ ref.num.finpos qnan = true) := by decide +kernel
  refine ⟨rfl, by simp [AeCheckHolds, none1], ⟨by simp [AeCheckHolds, large, ref, refParams, Params.nMax], fun p h1 h2 => ?_⟩,
    ⟨fun h => w9 (by simpa only [sub, norm] using h 0 ⟨0x7F000000#32, 0#32⟩ ⟨0xFF000000#32, 0#32⟩ (by decide) rfl rfl), fun p h1 h2 => ?_⟩⟩
  · interval_cases p <;> first
      | exact h7
      | simp [AeCheckHolds, large, commonAe, reals]
  · interval_cases p <;> first
      | exact v7
      | simp [AeCheckHolds, wide, commonAe, ref, refParams, Params.nMax, Params.fMax, Params.oMax, Params.mMax]

theorem test_hyp_AeCfgConfiguresAndResets : ∀ src, State.reset.ae.fault = .none ∧
    ∀ q, 1 ≤ q → q ≤ 9 → AeCheckHolds Config.params (smallCfg src) q := by
  refine fun src => ⟨rfl, fun q h1 h9 => ?_⟩
  have h7 : AeCheckHolds Config.params (smallCfg src) 7 := by
    intro i z hi he hz
    obtain rfl : i = 0 := Nat.lt_one_iff.1 hi
    cases hz
    decide
  have h9' : AeCheckHolds Config.params (smallCfg src) 9 := fun j x y hj => absurd hj (by simp [smallCfg])
  interval_cases q <;> first
    | exact h7
    | exact h9'
    | simp [AeCheckHolds, smallCfg, Params.nMax, Params.fMax, Params.oMax, Params.mMax]

/-- Each check of `HP.CFG` is the first to fail for some operand. -/
theorem test_hyp_FailedHpCheckHaltsParser : State.reset.hp.fault = .none ∧
    (∀ o ∈ [commonHp 0#2 12 0#64 0 0, commonHp 1#2 0 0#64 0 0, commonHp 0#2 72 0#64 0 0, commonHp 0#2 64 0#64 65 0,
        commonHp 1#2 8 0#64 64 65536], o.variant.toNat < 2 ∧ o.scramble = false) ∧
    ¬ HpCheckHolds (commonHp 0#2 12 0#64 0 0) 1 ∧
    (¬ HpCheckHolds (commonHp 1#2 0 0#64 0 0) 2 ∧ ¬ HpCheckHolds (commonHp 0#2 72 0#64 0 0) 2 ∧
      HpCheckHolds (commonHp 1#2 0 0#64 0 0) 1 ∧ HpCheckHolds (commonHp 0#2 72 0#64 0 0) 1) ∧
    (¬ HpCheckHolds (commonHp 0#2 64 0#64 65 0) 3 ∧ ∀ p, 1 ≤ p → p < 3 → HpCheckHolds (commonHp 0#2 64 0#64 65 0) p) ∧
    (¬ HpCheckHolds (commonHp 1#2 8 0#64 64 65536) 4 ∧
      ∀ p, 1 ≤ p → p < 4 → HpCheckHolds (commonHp 1#2 8 0#64 64 65536) p) := by
  refine ⟨rfl, by decide, ?_, ?_, ⟨?_, fun p h1 h2 => ?_⟩, ⟨?_, fun p h1 h2 => ?_⟩⟩
  case refine_4 => interval_cases p <;> simp [HpCheckHolds, commonHp]
  case refine_6 => interval_cases p <;> simp [HpCheckHolds, commonHp]
  all_goals simp [HpCheckHolds, commonHp]

theorem test_hyp_HpCfgConfiguresAndResets : State.reset.hp.fault = .none ∧
    ∀ o ∈ [commonHp 0#2 8 0#64 0 0, commonHp 1#2 64 0x1AAAA#64 64 65535], o.variant.toNat < 2 ∧ o.scramble = false ∧
      ∀ q, 1 ≤ q → q ≤ 4 → HpCheckHolds o q := by
  refine ⟨rfl, fun o h => ?_⟩
  simp only [List.mem_cons, List.not_mem_nil, or_false] at h
  rcases h with rfl | rfl <;> refine ⟨by decide, rfl, fun q h1 h4 => ?_⟩ <;> interval_cases q <;>
    simp [HpCheckHolds, commonHp]

/-! ### Faults -/

theorem test_hyp_HaltedUnitNeverChanges :
    let s : State := { small with ae := { smallAe with fault := .eNum }, pending := [⟨0x501#12, []⟩] }
    let t : State := { small with ae := { smallAe with fault := .eNum }, hpPort := .size 6 }
    step s = .next t ∧ s.ae.fault ≠ .none ∧
      step { small with hp := { small.hp with fault := .eCfg } } = .next { small with hp := { small.hp with fault := .eCfg } } :=
  ⟨rfl, by decide, rfl⟩

/-- Two antennas and two carriers, the last tap zero. -/
def zeroTap : AeUnit := { smallAe with nch := 2, occ := 2, fftLen := 8, zerosLeft := 3, calibrated := true,
                                       taps := [[⟨F32.one, 0#32⟩, ⟨F32.one, 0#32⟩], [⟨F32.one, 0#32⟩, C32.zero]] }

theorem one_is_finite : ref.num.finpos (ref.num.cabs ⟨F32.one, 0#32⟩) = true := by decide +kernel

theorem test_hyp_DataTupleNumericEdgeHaltsEngine : ({ small with ae := zeroTap } : State).aeReady ∧
    FitsEngine zeroTap (List.replicate 2 (List.replicate 8 C32.zero)) ∧ zeroTap.calibrated = true ∧
    FirstNumericEdge ref zeroTap 1 1 := by
  have h : ref.num.finpos (ref.num.cabs C32.zero) = false := by decide +kernel
  refine ⟨⟨rfl, rfl⟩, ⟨rfl, by simp [zeroTap]⟩, rfl, by decide, by decide, h, fun i c hi hc hlt => ?_⟩
  change i < 2 at hi
  change c < 2 at hc
  have taps : ∀ i c, i < 2 → c < 2 → (i = 0 ∨ c = 0) → tap ref zeroTap c i = ⟨F32.one, 0#32⟩ := by
    intro i c hi hc h
    interval_cases i <;> interval_cases c <;> first
      | omega
      | rfl
  rw [taps i c hi hc (by omega)]
  exact one_is_finite

/-- An all-zero preamble makes the first tap a division by zero (V-AE-11). -/
theorem test_hyp_PreambleNumericEdgeHaltsEngine : small.aeReady ∧ FitsEngine smallAe [List.replicate 4 C32.zero] ∧
    FirstNumericEdge ref (preamblePath ref [List.replicate 4 C32.zero] small.aeDraws smallAe) 0 0 :=
  ⟨⟨rfl, rfl⟩, ⟨rfl, by simp [smallAe]⟩, by decide, by decide, by decide +kernel, fun i c _ _ h => by omega⟩

/-! ### Acquisition engine -/

/-- The smallest engine with its tap written. -/
def acquiredAe : AeUnit := { smallAe with taps := [[⟨F32.one, 0#32⟩]], calibrated := true, phaseCount := 999 }

theorem ones4_fits : FitsEngine smallAe ones4 := ⟨rfl, by simp [smallAe, ones4]⟩

/-- For the machine's own numerics, of which nothing is known, the engine without antennas has no tap. -/
theorem test_hyp_DataTupleIsEqualized :
    (({ small with ae := acquiredAe } : State).aeReady ∧ FitsEngine acquiredAe ones4 ∧ acquiredAe.calibrated = true ∧
      NoNumericEdge ref acquiredAe) ∧
    (({ small with ae := { acquiredAe with nch := 0 } } : State).aeReady ∧ FitsEngine { acquiredAe with nch := 0 } [] ∧
      NoNumericEdge Config.params { acquiredAe with nch := 0 }) := by
  refine ⟨⟨⟨rfl, rfl⟩, ones4_fits, rfl, fun i c hi hc => ?_⟩, ⟨rfl, rfl⟩, ⟨rfl, by simp⟩, fun i c hi hc => absurd hc (Nat.not_lt_zero c)⟩
  change i < 1 at hi
  change c < 1 at hc
  obtain ⟨rfl, rfl⟩ : i = 0 ∧ c = 0 := by omega
  rw [show tap ref acquiredAe 0 0 = ⟨F32.one, 0#32⟩ from rfl]
  exact one_is_finite

theorem test_hyp_UncalibratedDataTupleCompletes : small.aeReady ∧ FitsEngine small.ae ones4 ∧ small.ae.calibrated = false :=
  ⟨⟨rfl, rfl⟩, ones4_fits, rfl⟩

theorem test_hyp_PreambleTupleIsAcquired :
    (small.aeReady ∧ FitsEngine small.ae ones4 ∧ NoNumericEdge ref (preamblePath ref ones4 small.aeDraws small.ae)) ∧
    (({ small with ae := { smallAe with nch := 0 } } : State).aeReady ∧ FitsEngine { smallAe with nch := 0 } [] ∧
      NoNumericEdge Config.params (preamblePath Config.params [] 0 { smallAe with nch := 0 })) := by
  have h : ref.num.finpos (ref.num.cabs (tap ref (preamblePath ref ones4 0 smallAe) 0 0)) = true := by decide +kernel
  refine ⟨⟨⟨rfl, rfl⟩, ones4_fits, fun i c hi hc => ?_⟩, ⟨rfl, rfl⟩, ⟨rfl, by simp⟩, fun i c hi hc => absurd hc (Nat.not_lt_zero c)⟩
  change i < 1 at hi
  change c < 1 at hc
  obtain ⟨rfl, rfl⟩ : i = 0 ∧ c = 0 := by omega
  exact h

theorem test_hyp_TupleOperationsAlwaysRun : small.aeReady ∧ FitsEngine small.ae ones4 := ⟨⟨rfl, rfl⟩, ones4_fits⟩

/-- A preamble tuple of the smallest engine runs, whatever the parameters. -/
theorem small_preamble_runs (P : Params) : ∃ u, aePre P (some ones4) small = .next u :=
  ⟨_, withTuple_ready _ rfl rfl rfl⟩

theorem test_hyp_PreambleTupleKeepsConfiguration : ∃ u, exec (.aePre 0xA5#8 (some ones4)) small = .next u :=
  small_preamble_runs Config.params

/-- Carriers 0 and 6 are even, 1 and 5 have a right neighbour, 7 is the last of an even number. -/
theorem test_hyp_PreambleBuildsTaps : (∃ u, aePre ref (some tuple8) engine8 = .next u) ∧ 0 < engine8.ae.nch ∧
    (∀ i ∈ [0, 6], i < engine8.ae.occ ∧ i % 2 = 0) ∧ (∀ i ∈ [1, 5], i % 2 = 1 ∧ i + 1 < engine8.ae.occ) ∧
    7 % 2 = 1 ∧ 7 + 1 = engine8.ae.occ := by
  have hf : engine8.ae.fault = .none ∧ engine8.ae.cfg = true ∧ tupleShape engine8.ae.nch engine8.ae.fftLen tuple8 = true := by
    decide +kernel
  exact ⟨⟨_, withTuple_ready _ hf.1 hf.2.1 hf.2.2⟩, by decide +kernel⟩

theorem reference_orders_scores : OrdersScores ref.num := by
  refine ⟨fun a b ha hb => ?_, fun a b c ha hb hc => ?_⟩ <;> simp [ref, refParams, rneNum, *] <;> omega

theorem test_hyp_SearchSelectsFirstMaximum : smallAe.Configured ref ∧ OrdersScores ref.num ∧
    (∃ u, aePre ref (some ones4) small = .next u) ∧
    ∀ i, 2 - 1 ≤ i → i < 2 + 1 → isNaN (score ref smallAe (differential ref 4 (nth [] ones4 0)) i) = false :=
  ⟨small_engine_legal ref, reference_orders_scores, small_preamble_runs ref, fun i _ _ => by
    rw [show score ref smallAe _ i = F32.posZero by simp [score, smallAe]]
    decide +kernel⟩

theorem test_hyp_ScoreCorrelatesDifferentials : smallAe.Configured ref ∧ (nth [] ones4 0).length = smallAe.fftLen ∧
    ∀ i ∈ [1, 2], smallAe.zerosLeft - smallAe.maxShift ≤ i ∧ i < smallAe.zerosLeft + smallAe.maxShift :=
  ⟨small_engine_legal ref, rfl, by decide⟩

theorem test_hyp_NoIndexLeavesItsArray : smallAe.Inv ref ∧ smallAe.cfg = true ∧ FitsEngine smallAe ones4 :=
  ⟨small_engine_inv ref, rfl, ones4_fits⟩

theorem test_hyp_PhaseFunctionReadsItsSource : (smallAe.Configured ref ∧ smallAe.phaseSrc = .direct) ∧
    (lutAe ref).Configured ref ∧ (lutAe ref).phaseSrc = .lut ∧
    ∀ d ∈ [(-1 : Int), 1], -((lutAe ref).maxShift : Int) ≤ d ∧ d ≤ (lutAe ref).maxShift :=
  ⟨⟨small_engine_legal ref, rfl⟩, lut_engine_legal ref, rfl, by simp [lutAe, smallAe]⟩

theorem test_hyp_PhaseCountRunsWithPeriod999 :
    let s : State := { small with ae := { smallAe with phaseCount := 2 } }
    s.ae.phaseCount = 2 ∧ ∃ u, execAll ([ones4].map fun t => .aeDat (some t)) s = some u ∧ u.ae.fault = .none :=
  ⟨rfl, _, rfl, rfl⟩

/-! ### The units -/

theorem test_hyp_UnitsShareNoState : (∃ t, exec (.aePre 1#8 (some ones4)) small = .next t) ∧
    ∃ t, exec (.hpBit true) small = .next t := ⟨small_preamble_runs Config.params, _, rfl⟩

theorem test_hyp_UnitStepsCommute : ∃ a b, exec (.aeDat (some ones4)) small = .next a ∧ exec .hpQnbits a = .next b ∧
    (Instr.aeDat (some ones4)).kind.unit = .ae ∧ Instr.hpQnbits.kind.unit = .hp := ⟨_, _, rfl, rfl, rfl, rfl⟩

/-! ### Header parser -/

/-- The same parser in `HEADER`, `n` body bits received. -/
def headerWith (v : Variant) (hreg : BitVec 64) (n : Nat) : State := inHeader (smallWith v 0#7) hreg n 99#64 0xAAAA#64

/-- Threshold 0 does not match the cleared register's first bit, threshold 64 does. -/
theorem test_hyp_SearchBitShiftsAndMatches : ∀ th ∈ [0#7, 64#7], (smallWith .default th).hpReady ∧
    (smallWith .default th).hp.Configured ∧ (smallWith .default th).hp.state = .search := by
  intro th h
  refine ⟨⟨rfl, rfl⟩, parser_legal _ ?_, rfl⟩
  simp only [List.mem_cons, List.not_mem_nil, or_false] at h
  rcases h with rfl | rfl <;> decide
theorem test_hyp_HighThresholdAlwaysMatches : (smallWith .counter 16#7).hpReady ∧ (smallWith .counter 16#7).hp.Configured ∧
    (smallWith .counter 16#7).hp.state = .search ∧
    (smallWith .counter 16#7).hp.acLen.toNat ≤ (smallWith .counter 16#7).hp.thresh.toNat :=
  ⟨⟨rfl, rfl⟩, parser_legal _ (by decide), rfl, by decide⟩
theorem test_hyp_HeaderBitShiftsIntoHeader : ∀ n ∈ [0, 30], (headerWith .default 0#64 n).hpReady ∧
    (headerWith .default 0#64 n).hp.state = .header ∧
    (headerWith .default 0#64 n).hp.hcount + 1 ≠ (headerWith .default 0#64 n).hp.hdrBody := by
  intro n h
  refine ⟨⟨rfl, rfl⟩, rfl, ?_⟩
  simp only [List.mem_cons, List.not_mem_nil, or_false] at h
  rcases h with rfl | rfl <;> decide
/-- A good header (`len` 100) and one whose copies differ. -/
theorem test_hyp_DefaultHeaderCompletes : ∀ hreg ∈ [0x00320032#64, 0x00320033#64], (headerWith .default hreg 31).hpReady ∧
    (headerWith .default hreg 31).hp.state = .header ∧
    (headerWith .default hreg 31).hp.hcount + 1 = (headerWith .default hreg 31).hp.hdrBody ∧
    (headerWith .default hreg 31).hp.variant = .default := fun _ _ => ⟨⟨rfl, rfl⟩, rfl, rfl, rfl⟩
theorem test_hyp_CounterHeaderCompletes : ∀ hreg ∈ [0x0032003200010000#64, 0x0033003200010000#64],
    (headerWith .counter hreg 63).hpReady ∧ (headerWith .counter hreg 63).hp.state = .header ∧
    (headerWith .counter hreg 63).hp.hcount + 1 = (headerWith .counter hreg 63).hp.hdrBody ∧
    (headerWith .counter hreg 63).hp.variant = .counter := fun _ _ => ⟨⟨rfl, rfl⟩, rfl, rfl, rfl⟩
theorem test_hyp_SoftSampleIsItsSignBit : ∀ x ∈ [F32.one, F32.posZero, 0xBF800000#32, 0x80000001#32, 0xFF800000#32],
    isNaN x = false ∧ x ≠ F32.negZero := by
  intro x h
  simp only [List.mem_cons, List.not_mem_nil, or_false] at h
  rcases h with rfl | rfl | rfl | rfl | rfl <;> decide
theorem test_hyp_OpenSampleStepsSomeBit : small.hpReady ∧ ∀ x ∈ [0x7F800001#32, 0xFFFFFFFF#32, F32.negZero],
    isNaN x = true ∨ x = F32.negZero := by
  refine ⟨⟨rfl, rfl⟩, fun x h => ?_⟩
  simp only [List.mem_cons, List.not_mem_nil, or_false] at h
  rcases h with rfl | rfl | rfl <;> decide
theorem test_hyp_SoftStreamEqualsHardStream :
    List.Forall₂ (fun x b => isNaN x = false ∧ x ≠ F32.negZero ∧ x ≠ F32.posZero ∧ Config.params.num.lt0 x = b)
      [F32.one, 0xBF800000#32] [Config.params.num.lt0 F32.one, Config.params.num.lt0 0xBF800000#32] :=
  .cons ⟨by decide, by decide, by decide, rfl⟩ (.cons ⟨by decide, by decide, by decide, rfl⟩ .nil)
theorem test_hyp_BitCounterCountsEveryBit : ∃ t, execAll ([true, false].map .hpBit) small = some t := ⟨_, rfl⟩
theorem test_hyp_BitsAndSamplesNeverFault : small.hpReady ∧ (Instr.hpSoft (some F32.one)).operandsPresent = true ∧
    (Instr.hpBit true).operandsPresent = true := ⟨⟨rfl, rfl⟩, rfl, rfl⟩
theorem test_hyp_DescriptorsAreFarApart : small.hpReady ∧ small.hp.state = .search ∧
    (List.replicate 32 true).length ≤ small.hp.hdrBody := ⟨⟨rfl, rfl⟩, rfl, by decide⟩

/-- With threshold 0 no part of `AA AA` that ends before its last bit is the access code. -/
theorem test_hyp_FormattedHeaderParsesBack : small.hpReady ∧ small.hp.Configured ∧ small.hp.state = .search ∧
    ∀ k q ds, k < small.hp.acLen.toNat →
      execDescs (((bytesBits (headerBytes small.hp 4800#32)).take k).map .hpBit) small = some (q, ds) →
      q.hp.state = .search := by
  refine ⟨⟨rfl, rfl⟩, parser_legal _ (by decide), rfl, fun k q ds hk h => ?_⟩
  have all : ∀ k, k < 16 →
      (execDescs (((bytesBits (headerBytes small.hp 4800#32)).take k).map .hpBit) small).map (fun r => r.1.hp.state) =
        some .search := by decide +kernel
  have e := all k hk
  rw [h] at e
  exact Option.some.inj e

/-- V-FMT-6 on one unit: the header it formats, parsed. -/
theorem test_round_trip_vfmt6 :
    (execDescs ((bytesBits (headerBytes (smallWith .counter 0#7).hp 4800#32)).map .hpBit) (smallWith .counter 0#7)).map (·.2) =
      some [.counter 80#64 38400#32 2#16 0#16] := by decide +kernel

/-! ### Header formatter and queries -/

theorem test_hyp_DefaultHeaderIsFormatted : small.hpReady ∧ small.hp.Configured ∧ small.hp.variant = .default :=
  ⟨⟨rfl, rfl⟩, parser_legal _ (by decide), rfl⟩
theorem test_hyp_CounterHeaderIsFormatted : (smallWith .counter 64#7).hpReady ∧ (smallWith .counter 64#7).hp.Configured ∧
    (smallWith .counter 64#7).hp.variant = .counter := ⟨⟨rfl, rfl⟩, parser_legal _ (by decide), rfl⟩
theorem test_hyp_FormatCounterCountsModulo65536 :
    let s : State := { smallWith .counter 0#7 with hp := { parserUnit .counter 0#7 with counter := 0xFFFF#16 } }
    s.hp.variant = .counter ∧ ∃ t, execAll ([1#32, 70000#32].map fun n => .hpFmt (some n)) s = some t := ⟨rfl, _, rfl⟩
theorem test_hyp_SizeQueriesAgreeWithHeaders : ∀ v, (smallWith v 0#7).hpReady ∧ (smallWith v 0#7).hp.Configured :=
  fun v => ⟨⟨rfl, rfl⟩, parser_legal v (by decide)⟩

end Sys2Proof.Tests
end

section
/-! The two units share no state (R1, R19). One relation between states and one update, both indexed by the unit, say what an
operation of that unit reads and what it writes. Every operation is local to its unit in these terms, and both statements about
the two units follow from that locality. -/

namespace Sys2Proof.Machine

/-! ### What the operations of a unit read and write -/

/-- Two states agree on all that an operation of the unit may read: its registers and its draw counter. -/
def State.SameUnit (s : State) (u : UnitId) (s' : State) : Prop :=
  match u with
  | .ae => s'.ae = s.ae ∧ s'.aeDraws = s.aeDraws
  | .hp => s'.hp = s.hp ∧ s'.hpDraws = s.hpDraws

/-- `s` with all that an operation of the unit may write taken from `t`: its registers, its port and its draw counter. -/
def State.withUnitOf (s : State) (u : UnitId) (t : State) : State :=
  match u with
  | .ae => { s with ae := t.ae, aePort := t.aePort, aeDraws := t.aeDraws }
  | .hp => { s with hp := t.hp, hpPort := t.hpPort, hpDraws := t.hpDraws }

/-- An update of the state reads and writes unit `u` alone, and presents a result there. -/
def LocalTo (u : UnitId) (f : State → State) : Prop :=
  ∀ s s', s.SameUnit u s' → f s' = s'.withUnitOf u (f s)

/-- An outcome whose next state, if it has one, is updated by `f`. -/
def mapNext (f : State → State) : Host.Outcome State Fault Refusal → Host.Outcome State Fault Refusal
  | .next t => .next (f t)
  | .fault e => .fault e
  | .refused r => .refused r

/-- An operation is local to unit `u`: in states that agree on the unit it has the same outcome, and a next state
keeps all but the unit. -/
def OpLocalTo (u : UnitId) (op : State → Host.Outcome State Fault Refusal) : Prop :=
  ∀ s s', s.SameUnit u s' → op s' = mapNext (s'.withUnitOf u) (op s)

theorem State.SameUnit.refl (s : State) (u : UnitId) : s.SameUnit u s := by
  cases u <;> exact ⟨rfl, rfl⟩

@[simp] theorem State.withUnitOf_pending (s : State) (u : UnitId) (t : State) : (s.withUnitOf u t).pending = s.pending := by
  cases u <;> rfl
@[simp] theorem State.withUnitOf_report (s : State) (u : UnitId) (t : State) : (s.withUnitOf u t).report = s.report := by
  cases u <;> rfl

/-- What `HP` reads is left by an update of `AE`. -/
theorem State.sameUnit_hp_withUnitOf_ae (s t : State) : (s.withUnitOf .ae t).SameUnit .hp s := ⟨rfl, rfl⟩

/-- What `AE` reads is left by an update of `HP`. -/
theorem State.sameUnit_ae_withUnitOf_hp (s t : State) : s.SameUnit .ae (s.withUnitOf .hp t) := ⟨rfl, rfl⟩

/-- Updates of the two units commute. -/
theorem State.withUnitOf_comm (s a b : State) :
    (s.withUnitOf .hp b).withUnitOf .ae a = (s.withUnitOf .ae a).withUnitOf .hp b := rfl

/-- Admission reads the unit's own registers. -/
theorem gate_congr {u : UnitId} {s s' : State} (h : s.SameUnit u s') (isCfg : Bool) :
    gate u isCfg s' = gate u isCfg s := by
  cases u <;> simp [gate, h.1]

/-! ### The forms an operation is made of -/

/-- A new unit `AE` and its result, computed from the unit. -/
theorem presentAe_withAe_local (g : AeUnit → AeUnit) (o : AeUnit → AeOut) :
    LocalTo .ae fun s => (s.withAe (g s.ae)).presentAe (o s.ae) := by
  rintro s s' ⟨hae, hd⟩
  simp [State.withUnitOf, State.withAe, State.presentAe, hae, ← hd]

/-- A new unit `HP` and its result, computed from the unit. -/
theorem presentHp_withHp_local (g : HpUnit → HpUnit) (o : HpUnit → HpOut) :
    LocalTo .hp fun s => (s.withHp (g s.hp)).presentHp (o s.hp) := by
  rintro s s' ⟨hhp, hd⟩
  simp [State.withUnitOf, State.withHp, State.presentHp, hhp, ← hd]

/-- A constant refusal is local to either unit. -/
theorem refused_local (u : UnitId) (c : RfCode) : OpLocalTo u fun _ => .refused (.rf c) := fun _ _ _ => rfl

/-- An update that always completes. -/
theorem LocalTo.next {u : UnitId} {f : State → State} (h : LocalTo u f) : OpLocalTo u fun s => .next (f s) :=
  fun s s' hs => congrArg Host.Outcome.next (h s s' hs)

/-- An operation that needs an operand is refused without one. -/
theorem operand_local {u : UnitId} {α : Type} {f : α → State → State} (h : ∀ a, LocalTo u (f a)) (c : RfCode)
    (x : Option α) : OpLocalTo u fun s => x.elim (.refused (.rf c)) fun a => .next (f a s) := by
  cases x with
  | none => exact refused_local u c
  | some a => exact (h a).next

/-- The admission of R194, then the operation's own meaning. -/
def admitted (u : UnitId) (isCfg : Bool) (body : State → Host.Outcome State Fault Refusal) (s : State) :
    Host.Outcome State Fault Refusal :=
  (gate u isCfg s).elim (body s) fun c => .refused (.rf c)

theorem admitted_local {u : UnitId} {body : State → Host.Outcome State Fault Refusal} (h : OpLocalTo u body)
    (isCfg : Bool) : OpLocalTo u (admitted u isCfg body) := by
  intro s s' hs
  unfold admitted
  rw [gate_congr hs]
  cases gate u isCfg s with
  | none => exact h s s' hs
  | some c => rfl

/-! ### The engine's operations -/

theorem aeCfg_eq_admitted (P : Params) (cfg : Option AeCfgOperand) :
    aeCfg P cfg = admitted .ae true fun s => cfg.elim (.refused (.rf .badOperand)) fun o => .next (runAeCfg P o s) := by
  funext s
  unfold aeCfg admitted
  cases gate .ae true s <;> cases cfg <;> rfl

theorem runAeCfg_local (P : Params) (o : AeCfgOperand) : LocalTo .ae (runAeCfg P o) := by
  unfold runAeCfg
  cases firstFailing 1 (aeChecks P o) with
  | some q => exact presentAe_withAe_local (fun u => { u with cfg := false, fault := .eCfg }) fun _ => _
  | none => exact presentAe_withAe_local (configuredAe P o) fun _ => .idle

theorem aeCfg_local (P : Params) (cfg : Option AeCfgOperand) : OpLocalTo .ae (aeCfg P cfg) := by
  rw [aeCfg_eq_admitted]
  exact admitted_local (operand_local (runAeCfg_local P) _ cfg) _

/-- A tuple operation whose body reads and writes the engine alone. -/
theorem withTuple_local {body : Tuple → State → State} (h : ∀ t, LocalTo .ae (body t)) (tuple : Option Tuple) :
    OpLocalTo .ae fun s => withTuple tuple s fun t => body t s := by
  intro s s' hs
  simp only [withTuple, gate_congr hs, hs.1]
  cases gate .ae false s with
  | some c => rfl
  | none =>
    cases takeTuple s.ae tuple with
    | error c => rfl
    | ok t => exact congrArg Host.Outcome.next (h t s s' hs)

theorem finishTuple_local (out : List C32) (flag : BitVec 8) : LocalTo .ae (finishTuple out flag) :=
  presentAe_withAe_local (fun u => { u with phaseCount := advancePhase u.phaseCount }) fun _ => .tuple out flag

theorem runDataPath_local (P : Params) (t : Tuple) (flag : BitVec 8) : LocalTo .ae (runDataPath P t flag) := by
  intro s s' hs
  unfold runDataPath
  rw [hs.1]
  cases dataPath P s.ae t with
  | ok out => exact finishTuple_local out flag s s' hs
  | error e => exact presentAe_withAe_local (fun u => { u with fault := .eNum }) (fun _ => _) s s' hs

/-- The preamble path computes the engine from the engine and its draw counter. -/
theorem runPreamble_sameUnit (P : Params) (t : Tuple) {s s' : State} (hs : s.SameUnit .ae s') :
    (runPreamble P t s).SameUnit .ae (runPreamble P t s') := by
  obtain ⟨hae, hd⟩ := hs
  constructor <;> simp [runPreamble, hae, hd]

theorem aePre_local (P : Params) (tuple : Option Tuple) : OpLocalTo .ae (aePre P tuple) := by
  refine withTuple_local (fun t s s' hs => ?_) tuple
  exact runDataPath_local P t preambleFlag _ _ (runPreamble_sameUnit P t hs)

/-- The data tuple's two cases: the data path, or the drawn vector of an uncalibrated engine (R127). -/
theorem aeDat_local (P : Params) (tuple : Option Tuple) : OpLocalTo .ae (aeDat P tuple) := by
  refine withTuple_local (fun t s s' hs => ?_) tuple
  have ⟨hae, hd⟩ := hs
  rw [hae, hd]
  cases s.ae.calibrated with
  | true => exact runDataPath_local P t dataFlag s s' hs
  | false =>
    have counted : (s.countAeDraws s.ae.occ).SameUnit .ae (s'.countAeDraws s.ae.occ) :=
      ⟨hae, congrArg (· + s.ae.occ) hd⟩
    exact finishTuple_local _ dataFlag _ _ counted

/-! ### The header unit's operations -/

theorem runBit_local (P : Params) (b : Bool) : LocalTo .hp (runBit P b) :=
  presentHp_withHp_local (fun u => (stepBit P b u).1) fun u => descOut (stepBit P b u).2

theorem hpBit_eq_admitted (P : Params) (b : Bool) :
    hpBit P b = admitted .hp false fun s => .next (runBit P b s) := by
  funext s
  unfold hpBit admitted
  cases gate .hp false s <;> rfl

theorem hpBit_local (P : Params) (b : Bool) : OpLocalTo .hp (hpBit P b) := by
  rw [hpBit_eq_admitted]
  exact admitted_local (runBit_local P b).next _

/-- A sample's step: the bit it stands for, and the draw where it decides none (R150, R152). -/
def runSoft (P : Params) (x : F32) (s : State) : State :=
  runBit P (slice P.num (P.drawBit s.hpDraws) x) (s.countHpDraws (if sliceOpen x then 1 else 0))

theorem hpSoft_eq_admitted (P : Params) (x : Option F32) :
    hpSoft P x = admitted .hp false fun s => x.elim (.refused (.rf .badOperand)) fun x => .next (runSoft P x s) := by
  funext s
  unfold hpSoft admitted
  cases gate .hp false s <;> cases x <;> rfl

theorem runSoft_local (P : Params) (x : F32) : LocalTo .hp (runSoft P x) := by
  rintro s s' ⟨hhp, hd⟩
  unfold runSoft
  rw [hd]
  exact runBit_local P _ _ _ ⟨hhp, congrArg (· + _) hd⟩

theorem hpSoft_local (P : Params) (x : Option F32) : OpLocalTo .hp (hpSoft P x) := by
  rw [hpSoft_eq_admitted]
  exact admitted_local (operand_local (runSoft_local P) _ x) _

theorem runFormat_local (n : BitVec 32) : LocalTo .hp (runFormat n) :=
  presentHp_withHp_local countFormat fun u => .hdr (headerBytes u n) true

theorem execHpFmt_eq_admitted (n : Option (BitVec 32)) :
    execHpFmt n = admitted .hp false fun s => n.elim (.refused (.rf .badOperand)) fun n => .next (runFormat n s) := by
  funext s
  unfold execHpFmt admitted
  cases gate .hp false s <;> cases n <;> rfl

theorem execHpFmt_local (n : Option (BitVec 32)) : OpLocalTo .hp (execHpFmt n) := by
  rw [execHpFmt_eq_admitted]
  exact admitted_local (operand_local runFormat_local _ n) _

theorem presentSize_eq_admitted (size : HpUnit → Nat) :
    presentSize size = admitted .hp false fun s => .next (s.presentHp (.size (size s.hp))) := by
  funext s
  unfold presentSize admitted
  cases gate .hp false s <;> rfl

theorem presentSize_local (size : HpUnit → Nat) : OpLocalTo .hp (presentSize size) := by
  rw [presentSize_eq_admitted]
  exact admitted_local (presentHp_withHp_local id fun u => .size (size u)).next _

theorem runHpCfg_local (o : HpCfgOperand) (v : Variant) : LocalTo .hp (runHpCfg v o) := by
  unfold runHpCfg
  cases firstFailing 1 (hpChecks o) with
  | some q => exact presentHp_withHp_local (fun u => { u with cfg := false, fault := .eCfg }) fun _ => _
  | none => exact presentHp_withHp_local (configuredHp v o) fun _ => .idle

/-- `HP.CFG` without its operand is refused after admission (R192, R194). -/
theorem execHpCfg_none : execHpCfg none = admitted .hp true fun _ => .refused (.rf .badOperand) := by
  funext s
  unfold execHpCfg admitted
  cases gate .hp true s <;> rfl

theorem execHpCfg_some (o : HpCfgOperand) :
    execHpCfg (some o) = admitted .hp true fun s =>
      (supportedVariant o).elim (.refused (.rf .unsupported)) fun v => .next (runHpCfg v o s) := by
  funext s
  unfold execHpCfg admitted
  dsimp only
  cases gate .hp true s <;> cases supportedVariant o <;> rfl

theorem execHpCfg_local (cfg : Option HpCfgOperand) : OpLocalTo .hp (execHpCfg cfg) := by
  cases cfg with
  | none =>
    rw [execHpCfg_none]
    exact admitted_local (refused_local .hp .badOperand) _
  | some o =>
    rw [execHpCfg_some]
    exact admitted_local (operand_local (runHpCfg_local o) _ (supportedVariant o)) _

/-! ### Every operation -/

/-- Every operation is local to the unit of its row (R1, R183, R203). -/
theorem exec_local (i : Instr) : OpLocalTo i.kind.unit (exec i) := by
  cases i with
  | aeCfg cfg => exact aeCfg_local _ cfg
  | aeDat tuple => exact aeDat_local _ tuple
  | aePre _ tuple => exact aePre_local _ tuple
  | hpBit b => exact hpBit_local _ b
  | hpSoft x => exact hpSoft_local _ x
  | hpFmt n => exact execHpFmt_local n
  | hpQnbits => exact presentSize_local _
  | hpQnbytes => exact presentSize_local _
  | hpCfg cfg => exact execHpCfg_local cfg

/-- What an operation does in a state it does in every state that agrees with it on the unit. -/
theorem exec_of_sameUnit {i : Instr} {u : UnitId} {s s' t : State} (hu : i.kind.unit = u) (h : exec i s = .next t)
    (hs : s.SameUnit u s') : exec i s' = .next (s'.withUnitOf u t) := by
  subst hu
  rw [exec_local i s s' hs, h]
  rfl

/-- The frame of an operation: it writes its own unit and nothing else. -/
theorem exec_frame {i : Instr} {u : UnitId} {s t : State} (hu : i.kind.unit = u) (h : exec i s = .next t) :
    t = s.withUnitOf u t := by
  have again := exec_of_sameUnit hu h (.refl s u)
  rw [h] at again
  exact Host.Outcome.next.inj again

/-- Settles O34: locality gives the frame on the state itself, and independence on every other state. -/
theorem unitsShareNoState : Obligations.UnitsShareNoState := by
  intro i s t h
  have frame := exec_frame rfl h
  refine ⟨?_, ?_, fun hu => ?_, fun hu => ?_⟩
  · rw [frame, State.withUnitOf_pending]
  · rw [frame, State.withUnitOf_report]
  · rw [hu] at frame
    exact ⟨(congrArg State.hp frame :), (congrArg State.hpPort frame :), (congrArg State.hpDraws frame :),
      fun s' hae hd => exec_of_sameUnit hu h ⟨hae, hd⟩⟩
  · rw [hu] at frame
    exact ⟨(congrArg State.ae frame :), (congrArg State.aePort frame :), (congrArg State.aeDraws frame :),
      fun s' hhp hd => exec_of_sameUnit hu h ⟨hhp, hd⟩⟩

/-- Settles O35: by locality each operation does to its own unit what it did in the other order, and the two updates
commute. -/
theorem unitStepsCommute : Obligations.UnitStepsCommute := by
  intro i j s a b hi hj ha hb
  have frameA : a = s.withUnitOf .ae a := exec_frame hi ha
  have frameB : b = a.withUnitOf .hp b := exec_frame hj hb
  have sameHp : a.SameUnit .hp s := by
    rw [frameA]
    exact State.sameUnit_hp_withUnitOf_ae s a
  refine ⟨s.withUnitOf .hp b, exec_of_sameUnit hj hb sameHp, ?_⟩
  calc exec i (s.withUnitOf .hp b)
    _ = .next ((s.withUnitOf .hp b).withUnitOf .ae a) :=
      exec_of_sameUnit hi ha (State.sameUnit_ae_withUnitOf_hp s b)
    _ = .next ((s.withUnitOf .ae a).withUnitOf .hp b) := by rw [State.withUnitOf_comm]
    _ = .next b := by rw [← frameA, ← frameB]

end Sys2Proof.Machine
end

section
/-! The invariant of the machine (10_state.md R23 to R53; 40_phase_lut.md R106; 42_header_parser.md R158). It is stated unit by
unit, so that what an operation has to keep is its own unit's part, and the frame of an operation keeps the other unit's. -/

namespace Sys2Proof.Machine

/-! ### The invariant of one unit -/

/-- The part of the invariant that speaks of the unit. -/
def State.UnitInv (P : Params) (s : State) : UnitId → Prop
  | .ae => s.ae.Inv P
  | .hp => s.hp.Inv

theorem State.inv_iff_unitInv {P : Params} {s : State} : s.Inv P ↔ ∀ u, s.UnitInv P u :=
  ⟨fun ⟨hae, hhp⟩ u => by cases u <;> assumption, fun h => ⟨h .ae, h .hp⟩⟩

/-- An update of one unit's part of the state: the invariant of either unit stands where that unit comes from. -/
theorem State.unitInv_withUnitOf {P : Params} {s t : State} {u v : UnitId} :
    (s.withUnitOf u t).UnitInv P v ↔ (if v = u then t else s).UnitInv P v := by
  cases u <;> cases v <;> rfl

/-- An operation keeps the invariant of the unit. -/
def OpKeeps (P : Params) (u : UnitId) (op : State → Host.Outcome State Fault Refusal) : Prop :=
  ∀ s t, s.UnitInv P u → op s = .next t → t.UnitInv P u

/-- An update keeps the invariant of the unit in every state in which the unit admits the operation. -/
def KeepsAdmitted (P : Params) (u : UnitId) (isCfg : Bool) (f : State → State) : Prop :=
  ∀ s, gate u isCfg s = none → s.UnitInv P u → (f s).UnitInv P u

theorem refused_keeps (P : Params) (u : UnitId) (isCfg : Bool) (c : RfCode) :
    OpKeeps P u (admitted u isCfg fun _ => .refused (.rf c)) := by
  intro s t _ h
  unfold admitted at h
  cases hg : gate u isCfg s <;> rw [hg] at h <;> cases h

/-- An admitted operation that always completes. -/
theorem KeepsAdmitted.op {P : Params} {u : UnitId} {isCfg : Bool} {f : State → State}
    (hf : KeepsAdmitted P u isCfg f) : OpKeeps P u (admitted u isCfg fun s => .next (f s)) := by
  intro s t hs h
  unfold admitted at h
  cases hg : gate u isCfg s <;> rw [hg] at h <;> cases h
  exact hf s hg hs

/-- An admitted operation that is refused without its operand. -/
theorem KeepsAdmitted.operand {P : Params} {u : UnitId} {isCfg : Bool} {α : Type} {f : α → State → State}
    (hf : ∀ a, KeepsAdmitted P u isCfg (f a)) (c : RfCode) (x : Option α) :
    OpKeeps P u (admitted u isCfg fun s => x.elim (.refused (.rf c)) fun a => .next (f a s)) := by
  cases x with
  | none => exact refused_keeps P u isCfg c
  | some a => exact (hf a).op

/-! ### The acquisition engine -/

/-- The value that a configuration and a preamble give `phase_count` is in its range (R106). -/
theorem phaseCount_start : 1 ≤ 1 ∧ 1 < maxNumSymbols := by decide

/-- An engine that holds no fault needs only the accumulator's range and a legal configuration. -/
theorem AeUnit.Inv.of_noFault {P : Params} {u : AeUnit} (hf : u.fault = .none)
    (hn : 1 ≤ u.phaseCount ∧ u.phaseCount < maxNumSymbols) (hc : u.cfg = true → u.Configured P) : u.Inv P where
  phase_range := hn
  configured := hc
  failed h := by simp [hf] at h
  numeric h := by simp [hf] at h

/-- R182: a failed configuration. -/
theorem AeUnit.Inv.failedCfg {P : Params} {u : AeUnit} (h : u.Inv P) :
    AeUnit.Inv P { u with cfg := false, fault := .eCfg } where
  phase_range := h.phase_range
  configured hc := by cases hc
  failed _ := rfl
  numeric hn := by cases hn

/-- R187: the numeric edge of a calibrated engine. -/
theorem AeUnit.Inv.numericEdge {P : Params} {u : AeUnit} (h : u.Inv P) (hc : u.cfg = true)
    (hcal : u.calibrated = true) : AeUnit.Inv P { u with fault := .eNum } where
  phase_range := h.phase_range
  configured _ := { h.configured hc with }
  failed hf := by cases hf
  numeric _ := ⟨hc, hcal⟩

/-- Check 7 reads entries below `O` only, so it holds of the stored entries too (R28). -/
theorem evenTapsNonzero_take {ksym : List C32} {occ : Nat} :
    evenTapsNonzero (ksym.take occ) occ = evenTapsNonzero ksym occ := by
  unfold evenTapsNonzero
  rw [Bool.eq_iff_iff, List.all_eq_true, List.all_eq_true]
  refine forall₂_congr fun i hi => ?_
  have stored : nth C32.zero (ksym.take occ) i = nth C32.zero ksym i := by
    unfold nth
    rw [List.getElem?_take_of_lt (List.mem_range.1 hi)]
  rw [stored]

/-- R175, R176: where every check holds, the engine is loaded with a legal configuration. -/
theorem configuredAe_configured {P : Params} {o : AeCfgOperand} (ae : AeUnit)
    (h : firstFailing 1 (aeChecks P o) = none) : (configuredAe P o ae).Configured P := by
  have checks := firstFailing_eq_none.1 h
  simp only [aeChecks, List.forall_mem_cons, decide_eq_true_eq, Bool.and_eq_true] at checks
  obtain ⟨nch, occ, occLt, klen, shift, window, even, ⟨⟨⟨⟨nMax, fMax⟩, oMax⟩, mMax⟩, cpMax⟩, -⟩ := checks
  exact {
    nch_pos := nch
    occ_pos := occ
    occ_lt := occLt
    shift_pos := shift
    shift_le := window
    zeros := rfl
    sizes := ⟨nMax, fMax, oMax, mMax, cpMax⟩
    ksym_length := List.length_take_of_le klen
    ksym_even := evenTapsNonzero_take.trans even
    kdiff_eq := rfl
    lut_eq := rfl
    coarse_range := by
      change -(o.maxShift : Int) ≤ 0 ∧ (0 : Int) < o.maxShift
      omega
    taps_shape := fun hcal => by cases hcal
    taps_unwritten := fun _ => rfl }

theorem runAeCfg_keeps (P : Params) (o : AeCfgOperand) : KeepsAdmitted P .ae true (runAeCfg P o) := by
  intro s hg hs
  obtain ⟨noFault, -⟩ := gate_eq_none.1 hg
  unfold runAeCfg
  cases h : firstFailing 1 (aeChecks P o) with
  | some q => exact AeUnit.Inv.failedCfg (u := s.ae) hs
  | none => exact .of_noFault noFault phaseCount_start fun _ => configuredAe_configured s.ae h

theorem aeCfg_keeps (P : Params) (cfg : Option AeCfgOperand) : OpKeeps P .ae (aeCfg P cfg) := by
  rw [aeCfg_eq_admitted]
  exact KeepsAdmitted.operand (runAeCfg_keeps P) _ cfg

/-- R129, R106: the completion of a tuple. -/
theorem finishTuple_keeps {P : Params} (out : List C32) (flag : BitVec 8) {s : State} (hf : s.ae.fault = .none)
    (h : s.ae.Inv P) : (finishTuple out flag s).ae.Inv P :=
  .of_noFault hf (advancePhase_range h.phase_range) fun hc => { h.configured hc with }

/-- R126, R129: either end of the data path of a calibrated engine. -/
theorem runDataPath_keeps {P : Params} (t : Tuple) (flag : BitVec 8) {s : State} (hf : s.ae.fault = .none)
    (hc : s.ae.cfg = true) (hcal : s.ae.calibrated = true) (h : s.ae.Inv P) : (runDataPath P t flag s).ae.Inv P := by
  rcases runDataPath_cases P t flag s with ⟨out, -, completed⟩ | ⟨i, c, -, halted⟩
  · rw [completed]
    exact finishTuple_keeps out flag hf h
  · rw [halted]
    exact h.numericEdge hc hcal

/-- R116: `coarse_freq = i* - Z` lies in `[-M, M)`, because `i*` lies in the window `[Z-M, Z+M)` and `M ≤ Z`. -/
theorem preamblePath_configured {P : Params} {ae : AeUnit} (t : Tuple) (draw : Nat) (h : ae.Configured P) :
    (preamblePath P t draw ae).Configured P := by
  obtain ⟨cf, hcf, path⟩ := preamblePath_eq P t draw ae
  have window := selected_range P ae (nth [] t 0) draw h.shift_pos
  have shift := h.shift_le
  rw [path]
  exact { h with
    coarse_range := by
      change -(ae.maxShift : Int) ≤ cf ∧ cf < ae.maxShift
      omega
    taps_shape := fun _ => ⟨allTaps_length P _ t, allTaps_row_length P _ t⟩
    taps_unwritten := fun hcal => by cases hcal }

theorem aePre_keeps (P : Params) (tuple : Option Tuple) : OpKeeps P .ae (aePre P tuple) := by
  intro s u hs h
  obtain ⟨hf, hc, t, -, -, rfl⟩ := withTuple_next h
  have configured := preamblePath_configured t s.aeDraws (hs.configured hc)
  have built : (runPreamble P t s).ae.Inv P := .of_noFault hf phaseCount_start fun _ => configured
  exact runDataPath_keeps t preambleFlag hf hc rfl built

/-- A data tuple's two cases: the data path, or the drawn vector of an uncalibrated engine (R127). -/
theorem aeDat_keeps (P : Params) (tuple : Option Tuple) : OpKeeps P .ae (aeDat P tuple) := by
  intro s u hs h
  obtain ⟨hf, hc, t, -, -, rfl⟩ := withTuple_next h
  by_cases hcal : s.ae.calibrated = true
  · rw [if_pos hcal]
    exact runDataPath_keeps t dataFlag hf hc hcal hs
  · rw [if_neg hcal]
    exact finishTuple_keeps _ dataFlag hf hs

/-! ### The header unit -/

/-- R182: a failed configuration. -/
theorem HpUnit.Inv.failedCfg {u : HpUnit} (h : u.Inv) : HpUnit.Inv { u with cfg := false, fault := .eCfg } where
  search_count := h.search_count
  header_count := h.header_count
  header_bits := h.header_bits
  configured hc := by cases hc
  fault_legal hf := by cases hf
  failed _ := rfl

/-- R177, R178: where every check holds, the unit is loaded with a legal configuration. -/
theorem configuredHp_configured {o : HpCfgOperand} (v : Variant) (hp : HpUnit)
    (h : firstFailing 1 (hpChecks o) = none) : (configuredHp v o hp).Configured := by
  have checks := firstFailing_eq_none.1 h
  simp only [hpChecks, List.forall_mem_cons, decide_eq_true_eq, Bool.and_eq_true] at checks
  obtain ⟨mult, range, thresh, -⟩ := checks
  have acLen : (configuredHp v o hp).acLen.toNat = o.acLen := Nat.mod_eq_of_lt (by omega)
  have thr : (configuredHp v o hp).thresh.toNat = o.thresh := Nat.mod_eq_of_lt (by omega)
  exact {
    len_mult := by rw [acLen]; exact mult
    len_range := by rw [acLen]; exact range
    thresh_le := by rw [thr]; exact thresh
    scramble_off := rfl
    mask_eq := by rw [acLen]; rfl
    acode_masked := by
      change o.pattern &&& maskOf o.acLen &&& maskOf o.acLen = o.pattern &&& maskOf o.acLen
      rw [BitVec.and_assoc, BitVec.and_self]
    nbits_eq := by rw [acLen]; rfl
    nbytes_eq := by rw [acLen]; rfl
    body_eq := rfl }

theorem runHpCfg_keeps (P : Params) (o : HpCfgOperand) (v : Variant) : KeepsAdmitted P .hp true (runHpCfg v o) := by
  intro s hg hs
  obtain ⟨noFault, -⟩ := gate_eq_none.1 hg
  rw [unitFault_hp] at noFault
  unfold runHpCfg
  cases h : firstFailing 1 (hpChecks o) with
  | some q => exact HpUnit.Inv.failedCfg (u := s.hp) hs
  | none =>
    exact {
      search_count := fun _ => rfl
      header_count := fun hst => by cases hst
      header_bits := fun hst => by cases hst
      configured := fun _ => configuredHp_configured v s.hp h
      fault_legal := hs.fault_legal
      failed := fun hf => by cases noFault.symm.trans hf }

theorem execHpCfg_keeps (P : Params) (cfg : Option HpCfgOperand) : OpKeeps P .hp (execHpCfg cfg) := by
  cases cfg with
  | none =>
    rw [execHpCfg_none]
    exact refused_keeps P .hp true .badOperand
  | some o =>
    rw [execHpCfg_some]
    exact KeepsAdmitted.operand (runHpCfg_keeps P o) _ (supportedVariant o)

/-- A header has body bits (R40). -/
theorem HpUnit.Configured.hdrBody_pos {u : HpUnit} (h : u.Configured) : 0 < u.hdrBody := by
  rw [h.body_eq]
  cases u.variant <;> decide

/-- R94, R140: a body bit shifted in fills one more position of the header register. -/
theorem shiftIn_toNat_lt {v : BitVec 64} {n : Nat} (b : Bool) (h : v.toNat < 2 ^ n) :
    (shiftIn v b).toNat < 2 ^ (n + 1) := by
  have bit : b.toNat ≤ 1 := Bool.toNat_le b
  calc (shiftIn v b).toNat
    _ = (2 * v.toNat + b.toNat) % 2 ^ 64 := shiftIn_toNat v b
    _ ≤ 2 * v.toNat + b.toNat := Nat.mod_le ..
    _ < 2 ^ (n + 1) := by rw [Nat.pow_succ]; omega

/-- R158, R149: a bit step keeps the header machine's invariants, by its four cases. -/
theorem stepBit_keeps (P : Params) (b : Bool) {u : HpUnit} (hc : u.cfg = true) (h : u.Inv) :
    (stepBit P b u).1.Inv := by
  have configured := h.configured hc
  rcases stepBit_cases P b u with ⟨hst, -, stepped⟩ | ⟨-, -, stepped⟩ | ⟨hst, more, stepped⟩ | ⟨-, -, stepped⟩
  · -- searching
    rw [stepped]
    exact { h with configured := fun _ => { configured with } }
  · -- the access code is found
    rw [stepped]
    exact { h with
      search_count := fun hs => by cases hs
      header_count := fun _ => configured.hdrBody_pos
      header_bits := fun _ => Nat.one_pos
      configured := fun _ => { configured with } }
  · -- a body bit that does not complete the header
    rw [stepped]
    exact { h with
      search_count := fun hs => by cases hst.symm.trans hs
      header_count := fun _ => Nat.lt_of_le_of_ne (h.header_count hst) more
      header_bits := fun _ => shiftIn_toNat_lt b (h.header_bits hst)
      configured := fun _ => { configured with } }
  · -- the header is complete
    obtain ⟨sreg, bps, completed⟩ := completeHeader_fst P
      { u with count := u.count + 1#64, hreg := shiftIn u.hreg b, hcount := u.hcount + 1 }
    rw [stepped, completed]
    exact { h with
      search_count := fun _ => rfl
      header_count := fun hs => by cases hs
      header_bits := fun hs => by cases hs
      configured := fun _ => { configured with } }

theorem runBit_keeps (P : Params) (b : Bool) : KeepsAdmitted P .hp false (runBit P b) := by
  intro s hg hs
  obtain ⟨-, hc⟩ := gate_eq_none.1 hg
  exact stepBit_keeps P b (by simpa using hc) hs

theorem hpBit_keeps (P : Params) (b : Bool) : OpKeeps P .hp (hpBit P b) := by
  rw [hpBit_eq_admitted]
  exact (runBit_keeps P b).op

/-- A sample is the bit it stands for; the draw it counts is no part of the unit. -/
theorem hpSoft_keeps (P : Params) (x : Option F32) : OpKeeps P .hp (hpSoft P x) := by
  rw [hpSoft_eq_admitted]
  exact KeepsAdmitted.operand (f := runSoft P) (fun x s => runBit_keeps P _ (s.countHpDraws _)) _ x

/-- R168: a format request counts, and writes no other register. -/
theorem countFormat_eq (u : HpUnit) : ∃ counter, countFormat u = { u with counter := counter } := by
  cases u with
  | mk variant => cases variant <;> exact ⟨_, rfl⟩

theorem runFormat_keeps (P : Params) (n : BitVec 32) : KeepsAdmitted P .hp false (runFormat n) := by
  intro s _ hs
  obtain ⟨counter, counted⟩ := countFormat_eq s.hp
  change (countFormat s.hp).Inv
  rw [counted]
  exact { hs with configured := fun hc => { hs.configured hc with } }

theorem execHpFmt_keeps (P : Params) (n : Option (BitVec 32)) : OpKeeps P .hp (execHpFmt n) := by
  rw [execHpFmt_eq_admitted]
  exact KeepsAdmitted.operand (runFormat_keeps P) _ n

/-- R74: a size query writes no register. -/
theorem presentSize_keeps (P : Params) (size : HpUnit → Nat) : OpKeeps P .hp (presentSize size) := by
  rw [presentSize_eq_admitted]
  exact KeepsAdmitted.op fun _ _ hs => hs

/-! ### Every operation and every step -/

/-- Every operation keeps the invariant of the unit of its row. -/
theorem exec_keeps_unitInv (i : Instr) : OpKeeps Config.params i.kind.unit (exec i) := by
  cases i with
  | aeCfg cfg => exact aeCfg_keeps _ cfg
  | aeDat tuple => exact aeDat_keeps _ tuple
  | aePre _ tuple => exact aePre_keeps _ tuple
  | hpBit b => exact hpBit_keeps _ b
  | hpSoft x => exact hpSoft_keeps _ x
  | hpFmt n => exact execHpFmt_keeps _ n
  | hpQnbits => exact presentSize_keeps _ _
  | hpQnbytes => exact presentSize_keeps _ _
  | hpCfg cfg => exact execHpCfg_keeps _ cfg

/-- Every operation keeps the invariant: its own unit's part by its meaning, the other unit's by its frame. -/
theorem exec_keeps_inv {i : Instr} {s t : State} (hs : s.Inv Config.params) (h : exec i s = .next t) :
    t.Inv Config.params := by
  rw [State.inv_iff_unitInv] at hs ⊢
  intro u
  rw [exec_frame rfl h, State.unitInv_withUnitOf]
  split
  case isTrue own => subst own; exact exec_keeps_unitInv i s t (hs _) h
  case isFalse => exact hs u

/-- Everything a step can do: nothing without an operation presented, else a refusal reported or the operation run. -/
theorem step_next_cases {s t : State} (h : step s = .next t) :
    (s.pending = [] ∧ t = s) ∨
      ∃ op rest, s.pending = op :: rest ∧
        ((∃ c, t = (s.taken rest).refuse c) ∨ ∃ i, decode op = .ok i ∧ exec i (s.taken rest) = .next t) := by
  unfold step at h
  cases hp : s.pending with
  | nil =>
    rw [hp] at h
    cases h
    exact .inl ⟨rfl, rfl⟩
  | cons op rest =>
    refine .inr ⟨op, rest, rfl, ?_⟩
    simp only [hp] at h
    cases hd : decode op with
    | error r =>
      rw [hd] at h
      cases h
      exact .inl ⟨.reserved, rfl⟩
    | ok i =>
      simp only [hd] at h
      rcases exec_next_or_refused i (s.taken rest) with ⟨u, ran, -, -⟩ | ⟨c, refused⟩
      · rw [ran, settle_next] at h
        cases h
        exact .inr ⟨i, rfl, ran⟩
      · rw [refused, settle_rf] at h
        cases h
        exact .inl ⟨c, rfl⟩

/-- Settles O8: taking an operation and reporting a refusal touch no unit, and every operation keeps the invariant. -/
theorem everyStepKeepsLegalState : Obligations.EveryStepKeepsLegalState := by
  intro s t hs h
  rcases step_next_cases h with ⟨-, rfl⟩ | ⟨op, rest, -, ⟨c, rfl⟩ | ⟨i, -, ran⟩⟩
  · exact hs
  · exact hs
  · exact exec_keeps_inv (s := s.taken rest) hs ran

end Sys2Proof.Machine
end

section
/-! The step's equation for an operation that decodes (20_memory.md R75; 30_encoding.md R80; 60_exceptions.md R192): it settles
the outcome of that operation in the state it is taken to. -/

namespace Sys2Proof.Machine

/-- The first operation presented leaves the queue, runs in the state without it, and its outcome is settled there. -/
theorem step_of_decode_ok {s : State} {op : RawOp} {rest : List RawOp} {i : Instr} (presented : s.pending = op :: rest)
    (decoded : decode op = .ok i) : step s = settle (s.taken rest) (exec i (s.taken rest)) := by
  simp only [step, presented, decoded]

/-- Settles O6: settling keeps a next state as it is and turns a refusal of the spec into its report. -/
theorem stepRunsDecodedOperation : Obligations.StepRunsDecodedOperation := by
  intro s op rest i presented decoded
  refine ⟨fun t ran => ?next, fun c refused => ?refused⟩
  case next =>
    calc step s
      _ = settle (s.taken rest) (exec i (s.taken rest)) := step_of_decode_ok presented decoded
      _ = settle (s.taken rest) (.next t) := congrArg _ ran
      _ = .next t := settle_next _ t
  case refused =>
    calc step s
      _ = settle (s.taken rest) (exec i (s.taken rest)) := step_of_decode_ok presented decoded
      _ = settle (s.taken rest) (.refused (.rf c)) := congrArg _ refused
      _ = .next ((s.taken rest).refuse c) := settle_rf _ c

end Sys2Proof.Machine
end

section
/-! Reading back what the encoder writes (30_encoding.md R81 to R88). Decoding is two steps, the row of the selector word and
the operands in that row's format, and each reads back what the encoder wrote: the row is the family `Selector` of the model's
laws, the operands have one lemma per format here. -/

namespace Sys2Proof

/-! ### The two halves of a selector word -/

/-- The PORT of a word written as PORT and SUB (R80). -/
@[simp] theorem selPort_append (port : BitVec 4) (sub : BitVec 8) : selPort (port ++ sub) = port :=
  extractLsb'_append_high port sub

/-- The SUB of a word written as PORT and SUB (R80). -/
@[simp] theorem selSub_append (port : BitVec 4) (sub : BitVec 8) : selSub (port ++ sub) = sub :=
  extractLsb'_append_low port sub

/-- The decoder on a word that selects a row. -/
theorem decode_of_selectRow {op : RawOp} {kind : OpKind} (h : selectRow op.sel = some kind) :
    decode op = .ok (readOperands op kind) := by
  simp only [decode, h]

/-! ### The operand formats -/

@[simp] theorem PhaseSrc.ofBit_toBit (src : PhaseSrc) : PhaseSrc.ofBit src.toBit = src := by
  cases src <;> rfl

/-- `FMT_TUPLE`, antenna by antenna and sample by sample (R82). -/
@[simp] theorem readTuple_writeTuple (t : Tuple) : readTuple (writeTuple t) = some t :=
  readAll_map (readAll_map readC32_writeC32) t

/-- `FMT_SOFT` (R85). -/
@[simp] theorem readSoft_toNat (x : F32) : readSoft [[x.toNat]] = some x := readWord_toNat x

/-- `FMT_FMT` (R86). -/
@[simp] theorem readFmt_toNat (n : BitVec 32) : readFmt [[n.toNat]] = some n := readWord_toNat n

/-- `FMT_AECFG`: the `KLEN` written is the number of known-symbol words that follow (R88). -/
@[simp] theorem readAeCfg_writeAeCfg (c : AeCfgOperand) : readAeCfg (writeAeCfg c) = some c := by
  have ksym : readAll readC32 (c.ksym.map writeC32) = some c.ksym := readAll_map readC32_writeC32 c.ksym
  simp [readAeCfg, writeAeCfg, ksym]

/-- `FMT_HPCFG` (R88). -/
@[simp] theorem readHpCfg_writeHpCfg (c : HpCfgOperand) : readHpCfg (writeHpCfg c) = some c := by
  simp [readHpCfg, writeHpCfg, readWord_toNat]

/-! ### Every operation -/

/-- The encoder writes a selector word of the operation's own row (R81). -/
theorem selectRow_encode (i : Instr) : Laws.Selector.Statement i := by
  cases i with
  | aeCfg cfg => exact Laws.Selector.aeCfg cfg
  | aeDat tuple => exact Laws.Selector.aeDat tuple
  | aePre flag tuple => exact Laws.Selector.aePre flag tuple
  | hpBit b => exact Laws.Selector.hpBit b
  | hpSoft x => exact Laws.Selector.hpSoft x
  | hpFmt n => exact Laws.Selector.hpFmt n
  | hpQnbits => exact Laws.Selector.hpQnbits
  | hpQnbytes => exact Laws.Selector.hpQnbytes
  | hpCfg cfg => exact Laws.Selector.hpCfg cfg

/-- In the row of an operation the operands are read back as the encoder wrote them. The flag of `AE.PRE` and the bit of
`HP.BIT` stand in the selector word (R83, R84), every other operand in the payload. -/
theorem readOperands_encode {i : Instr} (present : i.operandsPresent = true) : readOperands (encode i) i.kind = i := by
  cases i with
  | aeCfg cfg =>
    obtain ⟨c, rfl⟩ := Option.isSome_iff_exists.1 present
    exact congrArg Instr.aeCfg (readAeCfg_writeAeCfg c)
  | aeDat tuple =>
    obtain ⟨t, rfl⟩ := Option.isSome_iff_exists.1 present
    exact congrArg Instr.aeDat (readTuple_writeTuple t)
  | aePre flag tuple =>
    obtain ⟨t, rfl⟩ := Option.isSome_iff_exists.1 present
    exact congrArg₂ Instr.aePre (selSub_append 0x1#4 flag) (readTuple_writeTuple t)
  | hpBit b => cases b <;> rfl
  | hpSoft x =>
    obtain ⟨w, rfl⟩ := Option.isSome_iff_exists.1 present
    exact congrArg Instr.hpSoft (readSoft_toNat w)
  | hpFmt nbytes =>
    obtain ⟨n, rfl⟩ := Option.isSome_iff_exists.1 present
    exact congrArg Instr.hpFmt (readFmt_toNat n)
  | hpQnbits => rfl
  | hpQnbytes => rfl
  | hpCfg cfg =>
    obtain ⟨c, rfl⟩ := Option.isSome_iff_exists.1 present
    exact congrArg Instr.hpCfg (readHpCfg_writeHpCfg c)

/-- Settles O2: the selector word selects the operation's row, and in that row its operands are read back. -/
theorem decodeEncodeRoundTrip : Obligations.DecodeEncodeRoundTrip := by
  intro i wellFormed
  obtain ⟨present, -⟩ := Bool.and_eq_true_iff.1 wellFormed
  calc decode (encode i)
    _ = .ok (readOperands (encode i) i.kind) := decode_of_selectRow (selectRow_encode i wellFormed)
    _ = .ok i := congrArg _ (readOperands_encode present)

/-- The presented form of a well-formed operation decodes to it. -/
theorem decode_of_encode_eq {op : RawOp} {i : Instr} (wellFormed : i.wellFormed = true) (presented : encode i = op) :
    decode op = .ok i :=
  presented ▸ decodeEncodeRoundTrip i wellFormed

/-- Settles O1: each of these words and payloads is the one the encoder writes for the operation beside it. -/
theorem selectorWordsDecode : Obligations.SelectorWordsDecode := by
  refine ⟨?aeCfg, ?aeDat, ?aePre, ?hpBit, ?hpSoft, ?hpFmt, ?hpQnbits, ?hpQnbytes, ?hpCfg⟩
  all_goals exact decode_of_encode_eq rfl rfl

end Sys2Proof
end

section
/-! The selector word alone: which values select no row (30_encoding.md R97), and what the flag byte of a tuple selects
(R83). The operation map is read by PORT and SUB. -/

namespace Sys2Proof

open Machine

/-! ### Reserved selectors (R97) -/

/-- PORT and SUB as numbers (R80). -/
theorem selPort_toNat (sel : BitVec 12) : (selPort sel).toNat = sel.toNat / 256 := by
  rw [selPort, BitVec.extractLsb'_toNat, Nat.shiftRight_eq_div_pow]
  omega

theorem selSub_toNat (sel : BitVec 12) : (selSub sel).toNat = sel.toNat % 256 := by
  rw [selSub, BitVec.extractLsb'_toNat, Nat.shiftRight_zero]

/-- The reserved values of a selector word's PORT and SUB (R97). -/
def ReservedSelector (port sub : Nat) : Prop :=
  7 ≤ port ∨ (sub ≠ 0 ∧ (port = 0 ∨ port = 3 ∨ port = 4 ∨ port = 6)) ∨ (port = 2 ∧ 2 ≤ sub) ∨ (port = 5 ∧ 2 ≤ sub)

/-- The words that select no row are those with a reserved PORT and SUB, port by port. -/
theorem selectRow_eq_none_iff (sel : BitVec 12) :
    selectRow sel = none ↔ ReservedSelector (sel.toNat / 256) (sel.toNat % 256) := by
  rw [selectRow_eq_selectByPort, ← selPort_toNat, ← selSub_toNat]
  have sub_eq (n : BitVec 8) : selSub sel = n ↔ (selSub sel).toNat = n.toNat := BitVec.toNat_inj.symm
  unfold selectByPort ReservedSelector
  simp only [sub_eq, BitVec.toNat_ofNat]
  generalize (selPort sel).toNat = port, (selSub sel).toNat = sub
  match port, sub with
  | 0, _ | 3, _ | 4, _ | 6, _ => simp
  | 1, 0 | 1, _ + 1 => simp
  | 2, 0 | 2, 1 | 2, _ + 2 => simp
  | 5, 0 | 5, 1 | 5, _ + 2 => simp
  | _ + 7, _ => simp

/-- The decoder rejects exactly the words that select no row, whatever the payload. -/
theorem decode_error_iff (op : RawOp) : (∃ e, decode op = .error e) ↔ selectRow op.sel = none := by
  unfold decode
  cases selectRow op.sel with
  | none => simp
  | some kind => simp

/-- The first operation presented leaves the queue, and a selector that is no row's is reported (R97, R192). -/
theorem step_of_decode_error {s : State} {op : RawOp} {rest : List RawOp} {e : Reject} (presented : s.pending = op :: rest)
    (rejected : decode op = .error e) : step s = .next ((s.taken rest).refuse .reserved) := by
  simp only [step, presented, rejected]

/-- Settles O3: rejected is the word that selects no row, and that is the word with a reserved PORT and SUB. -/
theorem reservedSelectorsAreRefused : Obligations.ReservedSelectorsAreRefused := by
  intro sel payload
  have rejected_iff : (∃ e, decode ⟨sel, payload⟩ = .error e) ↔ ReservedSelector (sel.toNat / 256) (sel.toNat % 256) :=
    (decode_error_iff _).trans (selectRow_eq_none_iff sel)
  refine ⟨rejected_iff, fun s rest presented reserved => ?_⟩
  obtain ⟨e, rejected⟩ := rejected_iff.2 reserved
  exact step_of_decode_error presented rejected

/-! ### The flag byte (R83) -/

/-- Every word of PORT 1 is a tuple's: SUB 0 selects `AE.DAT`, any other `AE.PRE`. -/
theorem selectRow_tuple (flag : BitVec 8) :
    selectRow (0x1#4 ++ flag) = some (if flag = 0#8 then .aeDat else .aePre) := by
  rw [selectRow_eq_selectByPort, selectByPort, selPort_append, selSub_append]
  exact (apply_ite some _ _ _).symm

/-- The flag byte of a preamble tuple does not enter its meaning (R83). -/
theorem exec_aePre (flag : BitVec 8) (tuple : Option Tuple) : exec (.aePre flag tuple) = aePre Config.params tuple := rfl

/-- Settles O4: the row is the flag byte's choice, the tuple is read in either row, and the value of the flag is not read again. -/
theorem flagByteSelectsTuplePath : Obligations.FlagByteSelectsTuplePath := by
  intro flag payload
  refine ⟨?path, fun flag' s => ?alike⟩
  case path =>
    rw [decode_of_selectRow (selectRow_tuple flag)]
    by_cases h : flag = 0#8
    · simp only [if_pos h]
      rfl
    · simp only [if_neg h, readOperands, selSub_append]
  case alike => rw [exec_aePre, exec_aePre]

end Sys2Proof
end

section
/-! The shape a tuple must have (30_encoding.md R82; 41_acquisition.md R110): a tuple of another one is refused after admission,
before either meaning of a tuple operation. -/

namespace Sys2Proof.Machine

/-- The shape the engine checks is `N` symbols of `F` samples each. -/
theorem tupleShape_iff {n f : Nat} {t : Tuple} :
    tupleShape n f t = true ↔ t.length = n ∧ ∀ sym ∈ t, sym.length = f := by
  simp [tupleShape]

/-- A tuple of another shape, presented to a configured unhalted engine, is refused. -/
theorem withTuple_badShape {t : Tuple} {s : State} (body : Tuple → State) (ready : s.aeReady)
    (shape : ¬ tupleShape s.ae.nch s.ae.fftLen t = true) :
    withTuple (some t) s body = .refused (.rf .badOperand) := by
  obtain ⟨noFault, configured⟩ := ready
  simp only [withTuple, gate_ready (u := .ae) noFault configured, takeTuple, if_neg shape]

/-- Settles O14: both tuple operations begin with the check of the tuple's shape. -/
theorem tupleOfAnotherShapeIsRefused : Obligations.TupleOfAnotherShapeIsRefused := by
  intro t flag s ready other
  have shape : ¬ tupleShape s.ae.nch s.ae.fftLen t = true := by
    intro fits
    obtain ⟨count, samples⟩ := tupleShape_iff.1 fits
    rcases other with count' | ⟨sym, mem, samples'⟩
    · exact count' count
    · exact samples' (samples sym mem)
  exact ⟨withTuple_badShape _ ready shape, withTuple_badShape _ ready shape⟩

end Sys2Proof.Machine
end

section
/-! The access code as a bit string (30_encoding.md R96) and as a pattern (44_configure.md R177). A configuration reads of its
pattern the bits below `L_ac` alone, and there the value of the bit string has the string's own bits, leftmost highest. -/

namespace Sys2Proof.Machine

/-! ### The value of a bit string -/

/-- A bit string with one more character: its value doubles, and the character is bit 0 (R96). -/
theorem bitsValue_concat (bits : List Bool) (b : Bool) : bitsValue (bits ++ [b]) = Nat.bit b (bitsValue bits) := by
  rw [Nat.bit_val, bitsValue, List.foldl_append]
  rfl

/-- Bit `L-1-t` of the value is character `t` of the string, leftmost character first (R96). -/
theorem testBit_bitsValue {bits : List Bool} {t : Nat} (h : t < bits.length) :
    (bitsValue bits).testBit (bits.length - 1 - t) = bits.getD t false := by
  induction bits using List.reverseRecOn with
  | nil => cases h
  | append_singleton bits b ih =>
    rw [bitsValue_concat, List.length_append, List.length_singleton, Nat.add_sub_cancel]
    rw [List.length_append, List.length_singleton] at h
    rcases Nat.lt_succ_iff_lt_or_eq.1 h with inner | rfl
    · have higher : bits.length - t = (bits.length - 1 - t) + 1 := by omega
      rw [higher, Nat.testBit_bit_succ, ih inner, List.getD_append _ _ _ _ inner]
    · rw [Nat.sub_self, Nat.testBit_bit_zero, List.getD_append_right _ _ _ _ le_rfl, Nat.sub_self]
      rfl

/-! ### The pattern below `L_ac` -/

/-- Two patterns agree under `MASK` when they agree below `L_ac` (R39). -/
theorem and_maskOf_congr {x y : BitVec 64} {n : Nat} (hn : n ≤ 64) (h : ∀ i < n, x.getLsbD i = y.getLsbD i) :
    x &&& maskOf n = y &&& maskOf n := by
  apply BitVec.eq_of_getLsbD_eq
  intro i _
  rw [BitVec.getLsbD_and, BitVec.getLsbD_and, maskOf_getLsbD hn]
  by_cases low : i < n
  · rw [h i low]
  · simp [low]

/-- A configuration reads of its pattern what `MASK` leaves, and only where `L_ac` passes check 2 (R177, R178). -/
theorem runHpCfg_pattern_congr (v : Variant) {o : HpCfgOperand} {p : BitVec 64}
    (masked : o.acLen ≤ 64 → p &&& maskOf o.acLen = o.pattern &&& maskOf o.acLen) (s : State) :
    runHpCfg v { o with pattern := p } s = runHpCfg v o s := by
  have sameChecks : hpChecks { o with pattern := p } = hpChecks o := rfl
  unfold runHpCfg
  rw [sameChecks]
  cases checked : firstFailing 1 (hpChecks o) with
  | some q => rfl
  | none =>
    have checks := firstFailing_eq_none.1 checked
    simp only [hpChecks, List.forall_mem_cons, decide_eq_true_eq, Bool.and_eq_true] at checks
    obtain ⟨-, ⟨-, len⟩, -⟩ := checks
    simp only [configuredHp, masked len]

/-- The whole operation reads of its pattern no more: neither admission nor the choice of the variant looks at it. -/
theorem execHpCfg_pattern_congr {o : HpCfgOperand} {p : BitVec 64}
    (masked : o.acLen ≤ 64 → p &&& maskOf o.acLen = o.pattern &&& maskOf o.acLen) :
    execHpCfg (some { o with pattern := p }) = execHpCfg (some o) := by
  have sameVariant : supportedVariant { o with pattern := p } = supportedVariant o := rfl
  rw [execHpCfg_some, execHpCfg_some, sameVariant]
  simp only [runHpCfg_pattern_congr _ masked]

/-- Settles O5: below `L_ac` the pattern and the string's value have the same bits. -/
theorem bitStringNamesTheSameCode : Obligations.BitStringNamesTheSameCode := by
  intro v bits pattern th b scr s names
  have sameBits (i : Nat) (hi : i < bits.length) (h64 : bits.length ≤ 64) :
      (BitVec.ofNat 64 (bitsValue bits)).getLsbD i = pattern.getLsbD i := by
    have character : bits.length - 1 - i < bits.length := by omega
    have position : bits.length - 1 - (bits.length - 1 - i) = i := by omega
    have value := testBit_bitsValue character
    have coded := names _ character
    rw [position] at value coded
    rw [BitVec.getLsbD_ofNat, value, coded, decide_eq_true (by omega : i < 64), Bool.true_and]
  have same := execHpCfg_pattern_congr (p := BitVec.ofNat 64 (bitsValue bits))
    (o := { variant := v, acLen := bits.length, pattern := pattern, thresh := th, bpsInit := b, scramble := scr })
    fun h64 => and_maskOf_congr h64 fun i hi => sameBits i hi h64
  exact congrFun same s

end Sys2Proof.Machine
end

section
/-! The formatted header (43_header_format.md R165 to R168; 30_encoding.md R92, R93). A format request that a ready unit takes
is `runFormat`; what it presents is read byte by byte as numbers. -/

namespace Sys2Proof.Machine

/-- A ready unit takes a format request with its operand. -/
theorem exec_hpFmt_ready {s : State} (n : BitVec 32) (ready : s.hpReady) :
    exec (.hpFmt (some n)) s = .next (runFormat n s) := by
  obtain ⟨noFault, configured⟩ := ready
  change execHpFmt (some n) s = _
  rw [execHpFmt_eq_admitted, admitted, gate_ready (u := .hp) noFault configured]
  rfl

/-! ### The header's bytes as numbers -/

/-- Byte `t` of the access code is the byte of the code that begins `8t` bits below its top (R165). -/
theorem codeBytes_toNat (acLen : Nat) (acode : BitVec 64) :
    (codeBytes acLen acode).map BitVec.toNat =
      (List.range (acLen / 8)).map fun t => acode.toNat / 2 ^ (acLen - 8 - 8 * t) % 256 := by
  simp [codeBytes, BitVec.extractLsb'_toNat, Nat.shiftRight_eq_div_pow]

/-- A 16-bit field is its high byte and its low byte (R66). -/
theorem fieldBytes_toNat (x : BitVec 16) : (fieldBytes x).map BitVec.toNat = [x.toNat / 256, x.toNat % 256] := by
  have high : x.toNat / 256 % 256 = x.toNat / 256 := Nat.mod_eq_of_lt (by omega)
  simp [fieldBytes, BitVec.extractLsb'_toNat, Nat.shiftRight_eq_div_pow, high]

/-- The length field is the low two bytes of the length (R166). -/
theorem fieldBytes_len16_toNat (n : BitVec 32) :
    (fieldBytes (len16 n)).map BitVec.toNat = [n.toNat / 256 % 256, n.toNat % 256] := by
  have low : (len16 n).toNat = n.toNat % 65536 := BitVec.toNat_setWidth ..
  rw [fieldBytes_toNat, low]
  congr 1
  · omega
  · congr 1
    omega

/-- The bytes both variants begin with: the access code and the length twice (R92). -/
def baseHeaderBytes (u : HpUnit) (n : BitVec 32) : List (BitVec 8) :=
  codeBytes u.acLen.toNat u.acode ++ fieldBytes (len16 n) ++ fieldBytes (len16 n)

theorem headerBytes_default {u : HpUnit} (n : BitVec 32) (h : u.variant = .default) :
    headerBytes u n = baseHeaderBytes u n := by
  simp only [headerBytes, baseHeaderBytes, h]

theorem headerBytes_counter {u : HpUnit} (n : BitVec 32) (h : u.variant = .counter) :
    headerBytes u n = baseHeaderBytes u n ++ fieldBytes u.bps ++ fieldBytes u.counter := by
  simp only [headerBytes, baseHeaderBytes, h]

theorem baseHeaderBytes_toNat (u : HpUnit) (n : BitVec 32) :
    (baseHeaderBytes u n).map BitVec.toNat =
      ((List.range (u.acLen.toNat / 8)).map fun t => u.acode.toNat / 2 ^ (u.acLen.toNat - 8 - 8 * t) % 256) ++
        [n.toNat / 256 % 256, n.toNat % 256, n.toNat / 256 % 256, n.toNat % 256] := by
  rw [baseHeaderBytes, List.map_append, List.map_append, codeBytes_toNat, fieldBytes_len16_toNat, List.append_assoc]
  rfl

/-! ### The two variants -/

/-- Settles O48: the default variant presents the common bytes alone and counts nothing. -/
theorem defaultHeaderIsFormatted : Obligations.DefaultHeaderIsFormatted := by
  intro n s ready _ variant
  refine ⟨headerBytes s.hp n, ?state, ?bytes⟩
  case state =>
    have noCount : countFormat s.hp = s.hp := by simp only [countFormat, variant]
    rw [exec_hpFmt_ready n ready, runFormat, noCount]
    rfl
  case bytes => rw [headerBytes_default n variant, baseHeaderBytes_toNat]

/-- Settles O49: the counter variant presents two more fields and counts. -/
theorem counterHeaderIsFormatted : Obligations.CounterHeaderIsFormatted := by
  intro n s ready _ variant
  refine ⟨headerBytes s.hp n, ?state, ?bytes⟩
  case state =>
    have counts : countFormat s.hp = { s.hp with counter := s.hp.counter + 1#16 } := by simp only [countFormat, variant]
    rw [exec_hpFmt_ready n ready, runFormat, counts]
    rfl
  case bytes =>
    rw [headerBytes_counter n variant, List.map_append, List.map_append, baseHeaderBytes_toNat, fieldBytes_toNat,
      fieldBytes_toNat, List.append_assoc, List.append_assoc]
    rfl

end Sys2Proof.Machine
end

section
/-! The phase function and the symbol-phase accumulator (40_phase_lut.md R100 to R102, R105, R107). In LUT mode the phase is an
element of the filled table; the accumulator of a run of data tuples is the advance iterated, once per tuple. -/

namespace Sys2Proof.Machine

/-! ### The source of the phase (R100 to R102) -/

/-- Row `h`, column `n` of the filled table (R101). -/
theorem nth2_phaseLut (num : Numerics) (m cp f : Nat) (z : C32) {h n : Nat} (row : h < 2 * m + 1)
    (column : n < maxNumSymbols) : nth2 z (phaseLut num m cp f) h n = num.phaseTab h n m cp f := by
  rw [nth2, phaseLut, nth_map_range _ _ row, nth_map_range _ _ column]

theorem phi_direct {P : Params} {ae : AeUnit} (d : Int) (n : Nat) (src : ae.phaseSrc = .direct) :
    phi P ae d n = P.num.phase d n ae.cpLen ae.fftLen := by
  simp only [phi, src]

/-- A configured engine in LUT mode holds the filled table, and `PHI` reads it at row `d + M` (R102). -/
theorem phi_lut {P : Params} {ae : AeUnit} {d : Int} (n : Nat) (legal : ae.Configured P) (src : ae.phaseSrc = .lut)
    (low : -(ae.maxShift : Int) ≤ d) :
    phi P ae d n =
      nth2 P.noValue (phaseLut P.num ae.maxShift ae.cpLen ae.fftLen) (d + ae.maxShift).toNat n := by
  have filled : ae.lut = some (phaseLut P.num ae.maxShift ae.cpLen ae.fftLen) := by
    rw [legal.lut_eq, src]
  have row : 0 ≤ d + (ae.maxShift : Int) := by omega
  simp only [phi, src, filled, Option.getD_some, nthInt_of_nonneg _ _ row, nth2]

/-- Settles O32: direct mode calls the phase function; in LUT mode a hypothesis of `[-M, M]` is a row of the filled table. -/
theorem phaseFunctionReadsItsSource : Obligations.PhaseFunctionReadsItsSource := by
  intro P ae d n legal
  refine ⟨phi_direct d n, fun src low high column => ?_⟩
  have row : (d + ae.maxShift).toNat < 2 * ae.maxShift + 1 := by omega
  rw [phi_lut n legal src low, nth2_phaseLut _ _ _ _ _ row column]

/-! ### The accumulator's cycle (R105, R107) -/

/-- The accumulator runs through `1, .., 999`: its advance is the successor modulo 999. -/
theorem advancePhase_mod (m : Nat) : advancePhase (m % 999 + 1) = (m + 1) % 999 + 1 := by
  unfold advancePhase maxNumSymbols
  split <;> omega

theorem advancePhase_iterate_mod (k m : Nat) : advancePhase^[k] (m % 999 + 1) = (m + k) % 999 + 1 := by
  induction k with
  | zero => rfl
  | succ k ih => rw [Function.iterate_succ_apply', ih, advancePhase_mod, Nat.add_assoc]

/-! ### The accumulator along a run of data tuples -/

/-- A run of operations that is not refused begins with the first operation's next state. -/
theorem execAll_cons_eq_some {i : Instr} {is : List Instr} {s u : State} :
    execAll (i :: is) s = some u ↔ ∃ v, exec i s = .next v ∧ execAll is v = some u := by
  rw [execAll]
  cases exec i s <;> simp

@[simp] theorem finishTuple_phaseCount (out : List C32) (flag : BitVec 8) (s : State) :
    (finishTuple out flag s).ae.phaseCount = advancePhase s.ae.phaseCount := rfl

/-- A data path that ends without the numeric edge has completed its tuple (R126, R129). -/
theorem runDataPath_phaseCount {P : Params} {t : Tuple} {flag : BitVec 8} {s : State}
    (noFault : (runDataPath P t flag s).ae.fault = .none) :
    (runDataPath P t flag s).ae.phaseCount = advancePhase s.ae.phaseCount := by
  rcases runDataPath_cases P t flag s with ⟨out, -, completed⟩ | ⟨i, c, -, halted⟩
  · rw [completed, finishTuple_phaseCount]
  · rw [halted, raiseFault_ae] at noFault
    cases noFault

/-- A data tuple that leaves no fault found none and advances the accumulator, on a calibrated engine or not (R105, R127). -/
theorem aeDat_phaseCount {P : Params} {tuple : Option Tuple} {s u : State} (ran : aeDat P tuple s = .next u)
    (noFault : u.ae.fault = .none) :
    s.ae.fault = .none ∧ u.ae.phaseCount = advancePhase s.ae.phaseCount := by
  obtain ⟨unhalted, -, t, -, -, rfl⟩ := withTuple_next ran
  refine ⟨unhalted, ?_⟩
  split at noFault
  case isTrue calibrated =>
    rw [if_pos calibrated]
    exact runDataPath_phaseCount noFault
  case isFalse uncalibrated =>
    rw [if_neg uncalibrated]
    rfl

theorem exec_aeDat (tuple : Option Tuple) : exec (.aeDat tuple) = aeDat Config.params tuple := rfl

/-- Along data tuples that end without a fault the accumulator advances once per tuple: a fault on the way would have halted the
engine for the rest of the run. -/
theorem execAll_aeDat_phaseCount {ts : List Tuple} {s u : State}
    (ran : execAll (ts.map fun t => .aeDat (some t)) s = some u) (noFault : u.ae.fault = .none) :
    s.ae.fault = .none ∧ u.ae.phaseCount = advancePhase^[ts.length] s.ae.phaseCount := by
  induction ts generalizing s with
  | nil =>
    cases ran
    exact ⟨noFault, rfl⟩
  | cons t ts ih =>
    obtain ⟨v, first, rest⟩ := execAll_cons_eq_some.1 ran
    obtain ⟨noFaultYet, afterRest⟩ := ih rest
    rw [exec_aeDat] at first
    obtain ⟨unhalted, afterFirst⟩ := aeDat_phaseCount first noFaultYet
    exact ⟨unhalted, by rw [afterRest, afterFirst, List.length_cons, Function.iterate_succ_apply]⟩

/-- Settles O33: one advance per tuple, from `phase_count = 2 = 1 mod 999 + 1`. -/
theorem phaseCountRunsWithPeriod999 : Obligations.PhaseCountRunsWithPeriod999 := by
  intro ts s u start ran noFault
  calc u.ae.phaseCount
    _ = advancePhase^[ts.length] s.ae.phaseCount := (execAll_aeDat_phaseCount ran noFault).2
    _ = advancePhase^[ts.length] (1 % 999 + 1) := by rw [start]
    _ = (ts.length + 1) % 999 + 1 := by rw [advancePhase_iterate_mod, Nat.add_comm 1]

end Sys2Proof.Machine
end

section
/-! The data path's result (41_acquisition.md R121 to R126). Its two loops end in the combined output where every tap is finite
and positive, and in the first offending tap otherwise. The meanings of both tuple operations follow from these two ends. -/

namespace Sys2Proof.Machine

/-! ### One carrier: the loop over the antennas (R121 to R126) -/

/-- The accumulator `acc` after one more antenna (R122, R123). -/
def accStep (P : Params) (ae : AeUnit) (t : Tuple) (i : Nat) (acc : C32) (c : Nat) : C32 :=
  P.num.cadd acc (P.num.cmul
    (P.num.cmul (P.num.cdivr (tap P ae c i) (P.num.cabs (tap P ae c i))) (phi P ae ae.coarseFreq ae.phaseCount))
    (sample P ae t c i))

/-- The accumulator `norm` after one more antenna (R124). -/
def normStep (P : Params) (ae : AeUnit) (i : Nat) (norm : F32) (c : Nat) : F32 :=
  P.num.fadd norm (P.num.fdiv F32.one (P.num.cabs (tap P ae c i)))

theorem carrierSum_eq_foldl (P : Params) (ae : AeUnit) (t : Tuple) (i : Nat) :
    carrierSum P ae t i = (List.range ae.nch).foldl (accStep P ae t i) C32.zero := rfl

theorem carrierNorm_eq_foldl (P : Params) (ae : AeUnit) (i : Nat) :
    carrierNorm P ae i = (List.range ae.nch).foldl (normStep P ae i) F32.posZero := rfl

/-- The magnitude of tap `(i, c)` is finite and positive (R126). -/
def GoodTap (P : Params) (ae : AeUnit) (i c : Nat) : Prop := P.num.finpos (P.num.cabs (tap P ae c i)) = true

theorem combine_cons_of_good {P : Params} {ae : AeUnit} (t : Tuple) {i c : Nat} (cs : List Nat) (acc : C32) (norm : F32)
    (good : GoodTap P ae i c) :
    combine P ae t i (c :: cs) acc norm = combine P ae t i cs (accStep P ae t i acc c) (normStep P ae i norm c) :=
  if_pos good

theorem combine_cons_of_bad {P : Params} {ae : AeUnit} (t : Tuple) {i c : Nat} (cs : List Nat) (acc : C32) (norm : F32)
    (bad : P.num.finpos (P.num.cabs (tap P ae c i)) = false) :
    combine P ae t i (c :: cs) acc norm = .error (i, c) :=
  if_neg (by simp [bad])

/-- Antennas whose taps are good leave their sums in the accumulators. -/
theorem combine_append_of_good {P : Params} {ae : AeUnit} (t : Tuple) {i : Nat} {cs : List Nat} (rest : List Nat)
    (acc : C32) (norm : F32) (good : ∀ c ∈ cs, GoodTap P ae i c) :
    combine P ae t i (cs ++ rest) acc norm =
      combine P ae t i rest (cs.foldl (accStep P ae t i) acc) (cs.foldl (normStep P ae i) norm) := by
  induction cs generalizing acc norm with
  | nil => rfl
  | cons c cs ih =>
    rw [List.forall_mem_cons] at good
    obtain ⟨first, others⟩ := good
    rw [List.cons_append, combine_cons_of_good t _ _ _ first, ih _ _ others, List.foldl_cons, List.foldl_cons]

/-- A position of a loop has the positions below it before it. -/
theorem range_eq_append_cons {k n : Nat} (below : k < n) : ∃ rest, List.range n = List.range k ++ k :: rest := by
  obtain ⟨m, rfl⟩ := Nat.exists_eq_add_of_lt below
  refine ⟨(List.range m).map (k + 1 + ·), ?_⟩
  rw [Nat.add_right_comm, List.range_add, List.range_succ, List.append_assoc, List.singleton_append]

/-- A carrier whose taps are all good is combined from its two sums (R125). -/
theorem combine_range_of_good {P : Params} {ae : AeUnit} (t : Tuple) {i : Nat}
    (good : ∀ c < ae.nch, GoodTap P ae i c) :
    combine P ae t i (List.range ae.nch) C32.zero F32.posZero =
      .ok (P.num.cdivr (carrierSum P ae t i) (carrierNorm P ae i)) := by
  have sums := combine_append_of_good t [] C32.zero F32.posZero fun c hc => good c (List.mem_range.1 hc)
  rwa [List.append_nil] at sums

/-- A carrier ends at its first tap that is not good (R126). -/
theorem combine_range_of_firstBad {P : Params} {ae : AeUnit} (t : Tuple) {i c : Nat} (hc : c < ae.nch)
    (bad : P.num.finpos (P.num.cabs (tap P ae c i)) = false) (good : ∀ c' < c, GoodTap P ae i c') :
    combine P ae t i (List.range ae.nch) C32.zero F32.posZero = .error (i, c) := by
  obtain ⟨rest, split⟩ := range_eq_append_cons hc
  rw [split, combine_append_of_good t _ _ _ fun c' hc' => good c' (List.mem_range.1 hc'),
    combine_cons_of_bad t _ _ _ bad]

/-! ### The loop over the carriers (R121) -/

/-- Carriers that complete are the output's beginning; the rest of the loop gives the rest of it or the offending tap. -/
theorem carriers_append {P : Params} {ae : AeUnit} {t : Tuple} {is : List Nat} (rest : List Nat) {out : Nat → C32}
    (complete : ∀ i ∈ is, combine P ae t i (List.range ae.nch) C32.zero F32.posZero = .ok (out i)) :
    carriers P ae t (is ++ rest) = (carriers P ae t rest).map (is.map out ++ ·) := by
  induction is with
  | nil => cases h : carriers P ae t rest <;> simp [h, Except.map]
  | cons i is ih =>
    rw [List.forall_mem_cons] at complete
    obtain ⟨first, others⟩ := complete
    rw [List.cons_append, carriers, first, ih others]
    cases carriers P ae t rest <;> rfl

theorem carriers_cons_of_error {P : Params} {ae : AeUnit} {t : Tuple} {i : Nat} (is : List Nat) {e : Nat × Nat}
    (ends : combine P ae t i (List.range ae.nch) C32.zero F32.posZero = .error e) :
    carriers P ae t (i :: is) = .error e := by
  rw [carriers, ends]

/-- R125: without a numeric edge the data path answers the combined output. -/
theorem dataPath_of_noEdge {P : Params} {ae : AeUnit} (t : Tuple) (noEdge : NoNumericEdge P ae) :
    dataPath P ae t = .ok (combinedOutput P ae t) := by
  have complete := carriers_append (P := P) (ae := ae) (t := t) [] fun i hi =>
    combine_range_of_good t fun c hc => noEdge i c (List.mem_range.1 hi) hc
  rw [dataPath, combinedOutput]
  simpa [carriers, Except.map] using complete

/-- R126: the data path ends at the first tap that is not good, carriers ascending and then antennas ascending. -/
theorem dataPath_of_firstEdge {P : Params} {ae : AeUnit} (t : Tuple) {i c : Nat} (edge : FirstNumericEdge P ae i c) :
    dataPath P ae t = .error (i, c) := by
  obtain ⟨hi, hc, bad, earlier⟩ := edge
  obtain ⟨rest, split⟩ := range_eq_append_cons hi
  have complete : ∀ i' ∈ List.range i, combine P ae t i' (List.range ae.nch) C32.zero F32.posZero = .ok _ :=
    fun i' hi' => combine_range_of_good t fun c' hc' =>
      earlier i' c' ((List.mem_range.1 hi').trans hi) hc' (.inl (List.mem_range.1 hi'))
  have ends := combine_range_of_firstBad t hc bad fun c' hc' => earlier i c' hi (hc'.trans hc) (.inr ⟨rfl, hc'⟩)
  rw [dataPath, split, carriers_append _ complete, carriers_cons_of_error _ ends]
  rfl

/-! ### Completion and the numeric edge on the state (R105, R128, R129, R187) -/

theorem advancePhase_eq (n : Nat) : advancePhase n = if n = 999 then 1 else n + 1 := by
  simp [advancePhase, maxNumSymbols]

/-- A completed tuple writes `phase_count` and the port, nothing else. -/
theorem finishTuple_eq (out : List C32) (flag : BitVec 8) (s : State) :
    finishTuple out flag s =
      { s with ae := { s.ae with phaseCount := if s.ae.phaseCount = 999 then 1 else s.ae.phaseCount + 1 },
               aePort := .tuple out flag } := by
  rw [← advancePhase_eq]
  rfl

theorem runDataPath_of_noEdge {P : Params} (t : Tuple) (flag : BitVec 8) {s : State} (noEdge : NoNumericEdge P s.ae) :
    runDataPath P t flag s = finishTuple (combinedOutput P s.ae t) flag s := by
  rw [runDataPath, dataPath_of_noEdge t noEdge]

theorem runDataPath_of_firstEdge {P : Params} (t : Tuple) (flag : BitVec 8) {s : State} {i c : Nat}
    (edge : FirstNumericEdge P s.ae i c) : runDataPath P t flag s = raiseFault .ae .eNum (.tap i c) s := by
  rw [runDataPath, dataPath_of_firstEdge t edge]

/-! ### The two tuple operations on a ready engine (R110, R130, R131) -/

/-- A tuple of the right shape, presented to a ready engine, runs. -/
theorem withTuple_of_fits {t : Tuple} {s : State} (body : Tuple → State) (ready : s.aeReady) (fits : FitsEngine s.ae t) :
    withTuple (some t) s body = .next (body t) :=
  withTuple_ready body ready.1 ready.2 (tupleShape_iff.2 fits)

theorem aePre_ready (P : Params) {t : Tuple} {s : State} (ready : s.aeReady) (fits : FitsEngine s.ae t) :
    aePre P (some t) s = .next (runDataPath P t preambleFlag (runPreamble P t s)) :=
  withTuple_of_fits _ ready fits

theorem aeDat_calibrated (P : Params) {t : Tuple} {s : State} (ready : s.aeReady) (fits : FitsEngine s.ae t)
    (calibrated : s.ae.calibrated = true) : aeDat P (some t) s = .next (runDataPath P t dataFlag s) := by
  rw [aeDat, withTuple_of_fits _ ready fits, if_pos calibrated]

theorem aeDat_uncalibrated (P : Params) {t : Tuple} {s : State} (ready : s.aeReady) (fits : FitsEngine s.ae t)
    (uncalibrated : s.ae.calibrated = false) :
    aeDat P (some t) s =
      .next (finishTuple (drawnVector P s.aeDraws s.ae.occ) dataFlag (s.countAeDraws s.ae.occ)) := by
  rw [aeDat, withTuple_of_fits _ ready fits, if_neg (by simp [uncalibrated])]

theorem drawnVector_length (P : Params) (draw occ : Nat) : (drawnVector P draw occ).length = occ := by
  simp [drawnVector]

/-- With the machine's parameters a meaning is the operation's. -/
theorem exec_aeDat_of_aeDat {P : Params} {tuple : Option Tuple} {s : State} {o : Host.Outcome State Fault Refusal}
    (ran : aeDat P tuple s = o) (machine : P = Config.params) : exec (.aeDat tuple) s = o := by
  rw [exec_aeDat, ← machine, ran]

theorem exec_aePre_of_aePre {P : Params} (flag : BitVec 8) {tuple : Option Tuple} {s : State}
    {o : Host.Outcome State Fault Refusal} (ran : aePre P tuple s = o) (machine : P = Config.params) :
    exec (.aePre flag tuple) s = o := by
  rw [exec_aePre, ← machine, ran]

/-- Settles O21: the data path ends at the first offending tap, and raising its fault writes the fault and the port. -/
theorem dataTupleNumericEdgeHaltsEngine : Obligations.DataTupleNumericEdgeHaltsEngine := by
  intro P t s i c ready fits calibrated edge halted
  have ran : aeDat P (some t) s = .next halted := by
    rw [aeDat_calibrated P ready fits calibrated, runDataPath_of_firstEdge t _ edge, raiseFault_ae]
  exact ⟨ran, exec_aeDat_of_aeDat ran⟩

/-- Settles O22: the data path over the new taps ends at the first offending one. -/
theorem preambleNumericEdgeHaltsEngine : Obligations.PreambleNumericEdgeHaltsEngine := by
  intro P flag t s i c ready fits edge
  have ran : aePre P (some t) s = .next (raiseFault .ae .eNum (.tap i c) (runPreamble P t s)) := by
    rw [aePre_ready P ready fits, runDataPath_of_firstEdge (s := runPreamble P t s) t _ edge]
  exact ⟨_, ran, exec_aePre_of_aePre flag ran, rfl, rfl, rfl, rfl, rfl, rfl⟩

/-- Settles O23: without a numeric edge the data path answers the combined output, and the tuple completes. -/
theorem dataTupleIsEqualized : Obligations.DataTupleIsEqualized := by
  intro P t s ready fits calibrated noEdge done
  have ran : aeDat P (some t) s = .next done := by
    rw [aeDat_calibrated P ready fits calibrated, runDataPath_of_noEdge t _ noEdge, finishTuple_eq]
    rfl
  exact ⟨ran, exec_aeDat_of_aeDat ran⟩

/-- Settles O24: an uncalibrated engine completes with the drawn vector, whose length is `O`. -/
theorem uncalibratedDataTupleCompletes : Obligations.UncalibratedDataTupleCompletes := by
  intro t s ready fits uncalibrated
  refine ⟨drawnVector Config.params s.aeDraws s.ae.occ, s.aeDraws + s.ae.occ, drawnVector_length _ _ _, ?_⟩
  rw [exec_aeDat, aeDat_uncalibrated _ ready fits uncalibrated, finishTuple_eq]
  rfl

/-- Settles O25: the data path runs over the taps the preamble path has built, from `phase_count = 1`. -/
theorem preambleTupleIsAcquired : Obligations.PreambleTupleIsAcquired := by
  intro P flag t s ready fits u noEdge
  refine ⟨rfl, rfl, s.aeDraws + preambleDraws P t s.ae, ?_⟩
  intro done
  have ran : aePre P (some t) s = .next done := by
    rw [aePre_ready P ready fits, runDataPath_of_noEdge (s := runPreamble P t s) t _ noEdge, finishTuple_eq]
    rfl
  exact ⟨ran, exec_aePre_of_aePre flag ran⟩

/-- Settles O26: a tuple of the right shape runs, and the data path has two ends; an uncalibrated data tuple completes. -/
theorem tupleOperationsAlwaysRun : Obligations.TupleOperationsAlwaysRun := by
  intro flag t s ready fits
  have noFault : s.ae.fault = .none := ready.1
  constructor
  case left =>
    refine ⟨_, aePre_ready Config.params ready fits, ?_⟩
    rcases runDataPath_cases Config.params t preambleFlag (runPreamble Config.params t s) with
      ⟨out, answered, completed⟩ | ⟨i, c, -, halted⟩
    · rw [completed]
      exact ⟨rfl, .inl ⟨out, (dataPath_length answered :), rfl, rfl, rfl, noFault⟩⟩
    · rw [halted]
      exact ⟨rfl, .inr ⟨i, c, rfl, rfl⟩⟩
  case right =>
    cases calibrated : s.ae.calibrated with
    | false =>
      exact ⟨_, aeDat_uncalibrated Config.params ready fits calibrated, rfl, calibrated, rfl, rfl,
        .inl ⟨_, drawnVector_length _ _ _, rfl, noFault⟩⟩
    | true =>
      refine ⟨_, aeDat_calibrated Config.params ready fits calibrated, ?_⟩
      rcases runDataPath_cases Config.params t dataFlag s with ⟨out, answered, completed⟩ | ⟨i, c, -, halted⟩
      · rw [completed]
        exact ⟨rfl, calibrated, rfl, rfl, .inl ⟨out, dataPath_length answered, rfl, noFault⟩⟩
      · rw [halted]
        exact ⟨rfl, calibrated, rfl, rfl, .inr ⟨i, c, rfl, rfl, rfl⟩⟩

end Sys2Proof.Machine
end

section
/-! What a preamble tuple writes (41_acquisition.md R111 to R120, R130). Whichever way its data path ends, the engine is the one
the preamble path has built, but for `phase_count` and the fault: its frame, its taps and its coarse offset are the preamble
path's. -/

namespace Sys2Proof.Machine

/-! ### The engine after a preamble tuple -/

/-- The data path writes `phase_count` and the fault of the engine, and its port. -/
theorem runDataPath_eq (P : Params) (t : Tuple) (flag : BitVec 8) (s : State) :
    ∃ (n : Nat) (f : FaultCode) (o : AeOut),
      runDataPath P t flag s = { s with ae := { s.ae with phaseCount := n, fault := f }, aePort := o } := by
  rcases runDataPath_cases P t flag s with ⟨out, -, completed⟩ | ⟨i, c, -, halted⟩
  · exact ⟨_, _, _, completed⟩
  · exact ⟨_, _, _, halted⟩

/-- The state after a preamble tuple. -/
theorem aePre_next {P : Params} {tuple : Option Tuple} {s u : State} (ran : aePre P tuple s = .next u) :
    ∃ (t : Tuple) (n : Nat) (f : FaultCode) (o : AeOut), tuple = some t ∧
      u = { s with ae := { preamblePath P t s.aeDraws s.ae with phaseCount := n, fault := f }, aePort := o,
                   aeDraws := s.aeDraws + preambleDraws P t s.ae } := by
  obtain ⟨-, -, t, operand, -, after⟩ := withTuple_next ran
  obtain ⟨n, f, o, path⟩ := runDataPath_eq P t preambleFlag (runPreamble P t s)
  exact ⟨t, n, f, o, operand, after.trans path⟩

/-- Settles O27: neither the preamble path nor the data path writes any other register. -/
theorem preambleTupleKeepsConfiguration : Obligations.PreambleTupleKeepsConfiguration := by
  intro flag t s u ran
  rw [exec_aePre] at ran
  obtain ⟨t, n, f, o, -, rfl⟩ := aePre_next ran
  rfl

/-! ### The taps (R117 to R119) -/

theorem tapOf_even {i : Nat} (P : Params) (ae : AeUnit) (t : Tuple) (c : Nat) (even : i % 2 = 0) :
    tapOf P ae t c i = evenTap P ae t c i :=
  if_pos even

/-- R118: an odd tap with a right neighbour is the mean of its neighbours. -/
theorem tapOf_mean {i : Nat} (P : Params) {ae : AeUnit} (t : Tuple) (c : Nat) (odd : i % 2 = 1) (right : i + 1 < ae.occ) :
    tapOf P ae t c i =
      P.num.cdivr (P.num.cadd (tapOf P ae t c (i - 1)) (tapOf P ae t c (i + 1))) F32.two := by
  have left_even : (i - 1) % 2 = 0 := by omega
  have right_even : (i + 1) % 2 = 0 := by omega
  rw [tapOf_even P ae t c left_even, tapOf_even P ae t c right_even, tapOf, if_neg (by omega), if_pos right]

/-- R119: the last tap of an even `O` is a copy of the one before. -/
theorem tapOf_copy {i : Nat} (P : Params) {ae : AeUnit} (t : Tuple) (c : Nat) (odd : i % 2 = 1) (last : ¬ i + 1 < ae.occ) :
    tapOf P ae t c i = tapOf P ae t c (i - 1) := by
  have left_even : (i - 1) % 2 = 0 := by omega
  rw [tapOf_even P ae t c left_even, tapOf, if_neg (by omega), if_neg last]

/-- The taps a preamble tuple leaves are those of the equalizer at the coarse offset it leaves: the rules of the taps read
neither the taps nor `phase_count`, `calibrated` and the fault. -/
theorem aePre_taps {P : Params} {t : Tuple} {s u : State} (ran : aePre P (some t) s = .next u) :
    u.ae.occ = s.ae.occ ∧ u.ae.ksym = s.ae.ksym ∧
      ∀ (d : C32) (c i : Nat), c < s.ae.nch → i < s.ae.occ → nth2 d u.ae.taps c i = tapOf P u.ae t c i := by
  obtain ⟨_, n, f, o, operand, rfl⟩ := aePre_next ran
  cases operand
  exact ⟨rfl, rfl, fun d c i hc hi => nth2_allTaps P _ t d hc hi⟩

/-- Settles O28: the taps are the equalizer's, rule by rule. -/
theorem preambleBuildsTaps : Obligations.PreambleBuildsTaps := by
  intro P t s u d ran c i hc hi
  obtain ⟨occ, ksym, taps⟩ := aePre_taps ran
  refine ⟨fun even => ?even, fun odd right => ?mean, fun odd last => ?copy⟩
  case even => rw [taps d c i hc hi, tapOf_even P _ t c even, evenTap, ksym]
  case mean =>
    rw [taps d c i hc hi, taps d c (i - 1) hc (by omega), taps d c (i + 1) hc right,
      tapOf_mean P t c odd (by omega)]
  case copy =>
    rw [taps d c i hc hi, taps d c (i - 1) hc (by omega), tapOf_copy P t c odd (by omega)]

end Sys2Proof.Machine
end

section
/-! The coarse search (41_acquisition.md R111 to R116). The selection is a left fold over the window in ascending order; one
comparison keeps the first maximum of the hypotheses seen so far, if the comparison orders their scores. -/

namespace Sys2Proof.Machine

/-! ### The first maximum of scored hypotheses (R115) -/

/-- `r` is the first of the scored hypotheses `l` with the greatest score. -/
structure FirstMaximum (num : Numerics) (l : List (Nat × F32)) (r : Nat × F32) : Prop where
  mem : r ∈ l
  greatest : ∀ x ∈ l, num.fgt x.2 r.2 = false
  first : ∀ x ∈ l, x.1 < r.1 → num.fgt r.2 x.2 = true

/-- No score that is not NaN exceeds itself. -/
theorem OrdersScores.irrefl {num : Numerics} (order : OrdersScores num) {a : F32} (ha : isNaN a = false) :
    num.fgt a a = false := by
  cases h : num.fgt a a with
  | false => rfl
  | true => exact h.symm.trans (order.1 a a ha ha h)

/-- A score that exceeds another exceeds all that do not exceed that other. -/
theorem OrdersScores.exceeds {num : Numerics} (order : OrdersScores num) {a b c : F32} (ha : isNaN a = false)
    (hb : isNaN b = false) (hc : isNaN c = false) (greater : num.fgt a b = true) (notGreater : num.fgt c b = false) :
    num.fgt a c = true := by
  by_contra notExceeds
  have := order.2 a c b ha hc hb (Bool.eq_false_of_not_eq_true notExceeds) notGreater
  exact absurd greater (by simp [this])

/-- One comparison with a later hypothesis. -/
theorem FirstMaximum.append_later {num : Numerics} (order : OrdersScores num) {l : List (Nat × F32)} {r y : Nat × F32}
    (h : FirstMaximum num l r) (number : ∀ x ∈ l, isNaN x.2 = false) (numberY : isNaN y.2 = false)
    (later : ∀ x ∈ l, x.1 < y.1) : FirstMaximum num (l ++ [y]) (better num r y) := by
  have numberR := number r h.mem
  unfold better
  split
  case isTrue greater =>
    have notLess := order.1 _ _ numberY numberR greater
    exact {
      mem := by simp
      greatest := List.forall_mem_append.2
        ⟨fun x hx => order.2 _ _ _ (number x hx) numberR numberY (h.greatest x hx) notLess,
          List.forall_mem_singleton.2 (order.irrefl numberY)⟩
      first := List.forall_mem_append.2
        ⟨fun x hx _ => order.exceeds numberY numberR (number x hx) greater (h.greatest x hx),
          List.forall_mem_singleton.2 fun before => absurd before (lt_irrefl _)⟩ }
  case isFalse notGreater =>
    exact {
      mem := List.mem_append_left _ h.mem
      greatest := List.forall_mem_append.2
        ⟨h.greatest, List.forall_mem_singleton.2 (Bool.eq_false_of_not_eq_true notGreater)⟩
      first := List.forall_mem_append.2
        ⟨h.first, List.forall_mem_singleton.2 fun before => absurd before (lt_asymm (later r h.mem))⟩ }

/-- The fold over hypotheses in ascending order ends in their first maximum. -/
theorem foldl_better_firstMaximum {num : Numerics} (order : OrdersScores num) (x : Nat × F32) (xs : List (Nat × F32))
    (number : ∀ y ∈ x :: xs, isNaN y.2 = false) (ascending : (x :: xs).Pairwise (·.1 < ·.1)) :
    FirstMaximum num (x :: xs) (xs.foldl (better num) x) := by
  induction xs using List.reverseRecOn with
  | nil =>
    have self := order.irrefl (number x List.mem_cons_self)
    exact ⟨by simp, by simpa using self, by simp⟩
  | append_singleton xs y ih =>
    rw [← List.cons_append] at number ascending ⊢
    rw [List.pairwise_append] at ascending
    obtain ⟨ascending, -, later⟩ := ascending
    have number' : ∀ z ∈ x :: xs, isNaN z.2 = false := fun z hz => number z (List.mem_append_left _ hz)
    rw [List.foldl_concat]
    exact (ih number' ascending).append_later order number' (number y (by simp)) fun z hz => later z hz y (by simp)

/-! ### The window (R114) -/

theorem mem_scored {P : Params} {ae : AeUnit} {s0 : List C32} {x : Nat × F32} :
    x ∈ scored P ae s0 ↔ x.1 ∈ searchWindow ae ∧ x.2 = score P ae (differential P ae.fftLen s0) x.1 := by
  rw [scored, List.mem_map]
  constructor
  · rintro ⟨i, hi, rfl⟩
    exact ⟨hi, rfl⟩
  · rintro ⟨hi, score⟩
    exact ⟨x.1, hi, Prod.ext rfl score.symm⟩

/-- The window of a legal engine is half-open, `[Z-M, Z+M)`. -/
theorem mem_searchWindow {P : Params} {ae : AeUnit} (legal : ae.Configured P) {i : Nat} :
    i ∈ searchWindow ae ↔ ae.zerosLeft - ae.maxShift ≤ i ∧ i < ae.zerosLeft + ae.maxShift := by
  have := legal.shift_le
  rw [searchWindow, List.mem_range'_1]
  omega

theorem scored_ascending (P : Params) (ae : AeUnit) (s0 : List C32) :
    (scored P ae s0).Pairwise (·.1 < ·.1) :=
  List.pairwise_map.2 List.pairwise_lt_range'

/-- Of scores that are numbers the search selects the first maximum. -/
theorem selected_firstMaximum {P : Params} {ae : AeUnit} (s0 : List C32) (draw : Nat) (order : OrdersScores P.num)
    (shift : 1 ≤ ae.maxShift) (number : ∀ x ∈ scored P ae s0, isNaN x.2 = false) :
    ∃ r, r.1 = selected P ae (scored P ae s0) draw ∧ FirstMaximum P.num (scored P ae s0) r := by
  have closed : searchOpen (scored P ae s0) = false := by
    simpa [searchOpen] using fun i x hx => number (i, x) hx
  have ascending := scored_ascending P ae s0
  have nonempty : scored P ae s0 ≠ [] := by
    simp [scored, searchWindow, List.range'_eq_nil_iff]
    omega
  unfold selected
  rw [closed]
  match scored P ae s0, nonempty, number, ascending with
  | x :: xs, _, number, ascending => exact ⟨_, rfl, foldl_better_firstMaximum order x xs number ascending⟩

theorem aePre_coarseFreq {P : Params} {t : Tuple} {s u : State} (ran : aePre P (some t) s = .next u) :
    u.ae.coarseFreq = (selected P s.ae (scored P s.ae (nth [] t 0)) s.aeDraws : Int) - s.ae.zerosLeft := by
  obtain ⟨_, n, f, o, operand, rfl⟩ := aePre_next ran
  cases operand
  rfl

/-- Settles O29: the selected hypothesis lies in the window, and of scores that are numbers it is the first maximum. -/
theorem searchSelectsFirstMaximum : Obligations.SearchSelectsFirstMaximum := by
  intro P t s u legal ran z m sc
  have coarse := aePre_coarseFreq ran
  obtain ⟨low, high⟩ := selected_range P s.ae (nth [] t 0) s.aeDraws legal.shift_pos
  have shift : 2 * m ≤ z := legal.shift_le
  refine ⟨_, low, by omega, coarse, by omega, by omega, fun order number => ?_⟩
  have scored_iff (x : Nat × F32) : x ∈ scored P s.ae (nth [] t 0) ↔ (z - m ≤ x.1 ∧ x.1 < z + m) ∧ x.2 = sc x.1 := by
    rw [mem_scored, mem_searchWindow legal]
  obtain ⟨r, selects, mem, greatest, first⟩ := selected_firstMaximum (nth [] t 0) s.aeDraws order legal.shift_pos
    fun x hx => by
      obtain ⟨⟨lo, hi⟩, score⟩ := (scored_iff x).1 hx
      rw [score]
      exact number x.1 lo hi
  obtain ⟨⟨rlo, rhi⟩, rscore⟩ := (scored_iff r).1 mem
  rw [← selects, ← rscore]
  refine ⟨fun i lo hi => greatest (i, sc i) ((scored_iff _).2 ⟨⟨lo, hi⟩, rfl⟩), fun i lo hi maximum => ?_⟩
  by_contra before
  have exceeds := first (i, sc i) ((scored_iff _).2 ⟨⟨lo, hi⟩, rfl⟩) (Nat.lt_of_not_le before)
  rw [rscore, maximum r.1 rlo rhi] at exceeds
  cases exceeds

end Sys2Proof.Machine
end

section
/-! Indices stay inside their arrays (41_acquisition.md R111 to R113, R132; 20_memory.md R62). Under a legal configuration each
read of the engine is of an element that is there, so its default is free; the engine's operations are then carried, function by
function, from one value of an absent element to another. -/

namespace Sys2Proof.Machine

/-! ### Reads of elements that are there -/

theorem nth_default {α : Type} (d e : α) {l : List α} {i : Nat} (inside : i < l.length) : nth d l i = nth e l i := by
  rw [nth_eq_getElem d inside, nth_eq_getElem e inside]

/-- The window and the occupied carriers fit the symbol: `Z + M + O ≤ F`, because `2 M ≤ Z = ceil((F - O) / 2)`. -/
theorem AeUnit.Configured.window_fits {P : Params} {ae : AeUnit} (legal : ae.Configured P) :
    ae.zerosLeft + ae.maxShift + ae.occ ≤ ae.fftLen := by
  have zeros := legal.zeros
  have shift := legal.shift_le
  have positive := legal.shift_pos
  have occ := legal.occ_lt
  unfold zerosOf at zeros
  omega

theorem FitsEngine.symbol_length {ae : AeUnit} {t : Tuple} (fits : FitsEngine ae t) {c : Nat} (hc : c < ae.nch) :
    (nth [] t c).length = ae.fftLen := by
  obtain ⟨count, samples⟩ := fits
  rw [nth_eq_getElem [] (count ▸ hc)]
  exact samples _ (List.getElem_mem _)

/-! ### The score (R111 to R113) -/

theorem nth_differential (P : Params) (e : F32) (d : C32) {len i : Nat} {x : List C32} (long : len ≤ x.length)
    (hi : i < len - 2) :
    nth e (differential P len x) i = P.num.cnorm2 (P.num.csub (nth d x i) (nth d x (i + 2))) := by
  rw [differential, nth_map_range e _ hi, nth_default P.noValue d (show i < x.length by omega),
    nth_default P.noValue d (show i + 2 < x.length by omega)]

/-- Settles O30: each product of the sum is of two differentials inside their arrays. -/
theorem scoreCorrelatesDifferentials : Obligations.ScoreCorrelatesDifferentials := by
  intro P ae s0 d i legal length _ high
  have fits := legal.window_fits
  refine List.foldl_ext _ _ _ fun acc j hj => ?_
  rw [List.mem_range] at hj
  have known := nth_differential P P.noValue.re d legal.ksym_length.ge hj
  have received := nth_differential P P.noValue.re d length.ge (show i + j < ae.fftLen - 2 by omega)
  rw [legal.kdiff_eq, known, received]

/-! ### Another value for an absent element (log 9) -/

/-- The parameters with another value read outside an array. -/
def withNoValue (P : Params) (z : C32) : Params := { P with noValue := z }

@[simp] theorem withNoValue_num (P : Params) (z : C32) : (withNoValue P z).num = P.num := rfl

section
variable {P : Params} (z : C32) {ae : AeUnit} {t : Tuple}

theorem differential_withNoValue {len : Nat} {x : List C32} (long : len ≤ x.length) :
    differential (withNoValue P z) len x = differential P len x := by
  refine List.map_congr_left fun i hi => ?_
  rw [List.mem_range] at hi
  rw [withNoValue_num P z, nth_default _ P.noValue (show i < x.length by omega),
    nth_default _ P.noValue (show i + 2 < x.length by omega)]

/-- A legal configuration is legal whatever an absent element reads as. -/
theorem AeUnit.Configured.withNoValue (legal : ae.Configured P) : ae.Configured (withNoValue P z) :=
  { legal with kdiff_eq := legal.kdiff_eq.trans (differential_withNoValue z legal.ksym_length.ge).symm }

/-- R111 to R114: the search reads the known symbol's differentials and those of antenna 0. -/
theorem scored_withNoValue (legal : ae.Configured P) {s0 : List C32} (length : s0.length = ae.fftLen) :
    scored (withNoValue P z) ae s0 = scored P ae s0 := by
  refine List.map_congr_left fun i hi => ?_
  obtain ⟨low, high⟩ := (mem_searchWindow legal).1 hi
  rw [scoreCorrelatesDifferentials P ae s0 C32.zero i legal length low high,
    scoreCorrelatesDifferentials _ ae s0 C32.zero i (legal.withNoValue z) length low high]
  rfl

theorem selected_withNoValue (sc : List (Nat × F32)) (draw : Nat) :
    selected (withNoValue P z) ae sc draw = selected P ae sc draw := rfl

/-- R102: the table has a row for every coarse offset and a column for every symbol index. -/
theorem phi_withNoValue (legal : ae.Configured P) {n : Nat} (column : n < maxNumSymbols) :
    phi (withNoValue P z) ae ae.coarseFreq n = phi P ae ae.coarseFreq n := by
  obtain ⟨low, high⟩ := legal.coarse_range
  obtain ⟨direct, lut⟩ := phaseFunctionReadsItsSource P ae ae.coarseFreq n legal
  obtain ⟨direct', lut'⟩ := phaseFunctionReadsItsSource _ ae ae.coarseFreq n (legal.withNoValue z)
  cases src : ae.phaseSrc with
  | direct => rw [direct src, direct' src, withNoValue_num P z]
  | lut => rw [lut src low high.le column, lut' src low high.le column, withNoValue_num P z]

/-- R62: `0 ≤ i + Z + coarse_freq < F` for a carrier `i` below `O`. -/
theorem sample_withNoValue (legal : ae.Configured P) (fits : FitsEngine ae t) {c i : Nat} (hc : c < ae.nch)
    (hi : i < ae.occ) : sample (withNoValue P z) ae t c i = sample P ae t c i := by
  have length := fits.symbol_length hc
  have window := legal.window_fits
  have shift := legal.shift_le
  obtain ⟨low, high⟩ := legal.coarse_range
  have nonneg : 0 ≤ (i : Int) + ae.zerosLeft + ae.coarseFreq := by omega
  unfold sample
  rw [nthInt_of_nonneg _ _ nonneg, nthInt_of_nonneg _ _ nonneg]
  exact nth_default _ _ (by omega)

/-! ### The preamble path (R117 to R120) -/

theorem evenTap_withNoValue (legal : ae.Configured P) (fits : FitsEngine ae t) {c i : Nat} (hc : c < ae.nch)
    (hi : i < ae.occ) : evenTap (withNoValue P z) ae t c i = evenTap P ae t c i := by
  have known : i < ae.ksym.length := hi.trans_eq legal.ksym_length.symm
  rw [evenTap, phi_withNoValue z legal phaseCount_start.2, sample_withNoValue z legal fits hc hi,
    nth_default _ P.noValue known]
  rfl

/-- R117 to R119: every tap is made of even taps below `O`. -/
theorem tapOf_withNoValue (legal : ae.Configured P) (fits : FitsEngine ae t) {c i : Nat} (hc : c < ae.nch)
    (hi : i < ae.occ) : tapOf (withNoValue P z) ae t c i = tapOf P ae t c i := by
  have left := evenTap_withNoValue z legal fits hc (show i - 1 < ae.occ by omega)
  unfold tapOf
  split
  · exact evenTap_withNoValue z legal fits hc hi
  · split
    case isTrue right => rw [left, evenTap_withNoValue z legal fits hc right, withNoValue_num P z]
    case isFalse => exact left

theorem allTaps_withNoValue (legal : ae.Configured P) (fits : FitsEngine ae t) :
    allTaps (withNoValue P z) ae t = allTaps P ae t :=
  List.map_congr_left fun _ hc => List.map_congr_left fun _ hi =>
    tapOf_withNoValue z legal fits (List.mem_range.1 hc) (List.mem_range.1 hi)

/-- The engine with the coarse offset its search selects is legal (R116). -/
theorem AeUnit.Configured.withCoarse (legal : ae.Configured P) (s0 : List C32) (draw : Nat) :
    AeUnit.Configured P
      { ae with coarseFreq := (selected P ae (scored P ae s0) draw : Int) - ae.zerosLeft } := by
  have window := selected_range P ae s0 draw legal.shift_pos
  have shift := legal.shift_le
  exact { legal with coarse_range := by dsimp only; omega }

/-- The preamble path reads no absent element. -/
theorem runPreamble_withNoValue {s : State} (legal : s.ae.Configured P) (fits : FitsEngine s.ae t) :
    runPreamble (withNoValue P z) t s = runPreamble P t s := by
  have scores := scored_withNoValue z legal (fits.symbol_length legal.nch_pos)
  have taps := allTaps_withNoValue z (legal.withCoarse (nth [] t 0) s.aeDraws) fits
  simp only [runPreamble, preamblePath, preambleDraws, scores, selected_withNoValue, taps]

/-! ### The data path (R121 to R126) -/

/-- R43: a calibrated engine holds a tap for every antenna and carrier. -/
theorem tap_withNoValue (legal : ae.Configured P) (calibrated : ae.calibrated = true) {c i : Nat} (hc : c < ae.nch)
    (hi : i < ae.occ) : tap (withNoValue P z) ae c i = tap P ae c i := by
  obtain ⟨rows, columns⟩ := legal.taps_shape calibrated
  have row : c < ae.taps.length := hc.trans_eq rows.symm
  refine nth_default _ _ ?_
  rw [nth_eq_getElem [] row, columns _ (List.getElem_mem row)]
  exact hi

/-- One carrier gives the same where the taps and samples of its antennas and the phase do. -/
theorem combine_withNoValue {i : Nat} (phase : phi (withNoValue P z) ae ae.coarseFreq ae.phaseCount =
      phi P ae ae.coarseFreq ae.phaseCount) {cs : List Nat}
    (reads : ∀ c ∈ cs, tap (withNoValue P z) ae c i = tap P ae c i ∧ sample (withNoValue P z) ae t c i = sample P ae t c i)
    (acc : C32) (norm : F32) :
    combine (withNoValue P z) ae t i cs acc norm = combine P ae t i cs acc norm := by
  induction cs generalizing acc norm with
  | nil => rfl
  | cons c cs ih =>
    rw [List.forall_mem_cons] at reads
    obtain ⟨⟨sameTap, sameSample⟩, others⟩ := reads
    simp only [combine, sameTap, sameSample, phase, ih others, withNoValue_num P z]

theorem carriers_withNoValue {is : List Nat}
    (same : ∀ i ∈ is, combine (withNoValue P z) ae t i (List.range ae.nch) C32.zero F32.posZero =
      combine P ae t i (List.range ae.nch) C32.zero F32.posZero) :
    carriers (withNoValue P z) ae t is = carriers P ae t is := by
  induction is with
  | nil => rfl
  | cons i is ih =>
    rw [List.forall_mem_cons] at same
    obtain ⟨first, others⟩ := same
    rw [carriers, carriers, first, ih others]

/-- The data path of a calibrated engine reads no absent element. -/
theorem runDataPath_withNoValue (flag : BitVec 8) {s : State} (legal : s.ae.Configured P)
    (column : s.ae.phaseCount < maxNumSymbols) (calibrated : s.ae.calibrated = true) (fits : FitsEngine s.ae t) :
    runDataPath (withNoValue P z) t flag s = runDataPath P t flag s := by
  have same : dataPath (withNoValue P z) s.ae t = dataPath P s.ae t :=
    carriers_withNoValue z fun i hi => combine_withNoValue z (phi_withNoValue z legal column)
      (fun c hc => ⟨tap_withNoValue z legal calibrated (List.mem_range.1 hc) (List.mem_range.1 hi),
        sample_withNoValue z legal fits (List.mem_range.1 hc) (List.mem_range.1 hi)⟩) _ _
  rw [runDataPath, runDataPath, same]

end

/-! ### The tuple operations (R132) -/

/-- A tuple operation is its admission and its body on the tuple. -/
theorem withTuple_congr {t : Tuple} (s : State) {body body' : Tuple → State} (same : body t = body' t) :
    withTuple (some t) s body = withTuple (some t) s body' := by
  by_cases shape : tupleShape s.ae.nch s.ae.fftLen t = true <;> simp [withTuple, takeTuple, shape, same]

/-- Settles O31: the preamble path of a legal engine reads no absent element and leaves a legal calibrated engine, and the data
path of such an engine reads none. -/
theorem noIndexLeavesItsArray : Obligations.NoIndexLeavesItsArray := by
  intro P z t s inv configured fits
  have legal := inv.configured configured
  refine ⟨withTuple_congr s ?preamble, withTuple_congr s ?data⟩
  case preamble =>
    have acquired : (runPreamble P t s).ae.Configured P := preamblePath_configured t s.aeDraws legal
    calc runDataPath (withNoValue P z) t preambleFlag (runPreamble (withNoValue P z) t s)
      _ = runDataPath (withNoValue P z) t preambleFlag (runPreamble P t s) := by rw [runPreamble_withNoValue z legal fits]
      _ = runDataPath P t preambleFlag (runPreamble P t s) :=
        runDataPath_withNoValue z preambleFlag acquired phaseCount_start.2 rfl fits
  case data =>
    cases calibrated : s.ae.calibrated with
    | true => exact runDataPath_withNoValue z dataFlag legal inv.phase_range.2 calibrated fits
    | false => rfl

end Sys2Proof.Machine
end

section
/-! One bit and one sample (42_header_parser.md R135 to R152). The unit's step is said once for each of its cases: `SEARCH`, a
body bit, and the completing bit of either variant with its header read as a number. A ready unit's operation is that step. -/

namespace Sys2Proof.Machine

/-! ### The operations of a ready unit -/

theorem exec_hpBit (b : Bool) : exec (.hpBit b) = hpBit Config.params b := rfl

theorem exec_hpSoft (x : Option F32) : exec (.hpSoft x) = hpSoft Config.params x := rfl

/-- A ready unit steps a bit (R151). -/
theorem hpBit_ready (P : Params) (b : Bool) {s : State} (ready : s.hpReady) : hpBit P b s = .next (runBit P b s) := by
  obtain ⟨noFault, configured⟩ := ready
  rw [hpBit_eq_admitted, admitted, gate_ready (u := .hp) noFault configured]
  rfl

/-- A ready unit steps a sample (R152). -/
theorem hpSoft_ready (P : Params) (x : F32) {s : State} (ready : s.hpReady) :
    hpSoft P (some x) s = .next (runSoft P x s) := by
  obtain ⟨noFault, configured⟩ := ready
  rw [hpSoft_eq_admitted, admitted, gate_ready (u := .hp) noFault configured]
  rfl

/-- A bit that is not refused is stepped. -/
theorem hpBit_next {P : Params} {b : Bool} {s t : State} (ran : hpBit P b s = .next t) : t = runBit P b s := by
  rw [hpBit_eq_admitted, admitted] at ran
  cases admission : gate .hp false s with
  | none =>
    rw [admission] at ran
    cases ran
    rfl
  | some c =>
    rw [admission] at ran
    cases ran

/-- The next state of a ready unit, from the unit and the descriptor of its step. -/
theorem exec_hpBit_of_stepBit {b : Bool} {s : State} {u : HpUnit} {d : Option Desc} (ready : s.hpReady)
    (stepped : stepBit Config.params b s.hp = (u, d)) :
    exec (.hpBit b) s = .next { s with hp := u, hpPort := descOut d } := by
  rw [exec_hpBit, hpBit_ready _ b ready, runBit, stepped]
  rfl

@[simp] theorem runBit_hp (P : Params) (b : Bool) (s : State) : (runBit P b s).hp = (stepBit P b s.hp).1 := rfl
@[simp] theorem runBit_hpPort (P : Params) (b : Bool) (s : State) :
    (runBit P b s).hpPort = descOut (stepBit P b s.hp).2 := rfl

/-! ### What a bit writes -/

/-- A bit counts, and writes no register of the configuration, no formatter register and no fault (R136 to R148). -/
theorem stepBit_fst (P : Params) (b : Bool) (u : HpUnit) :
    ∃ state sreg hreg hcount bps, (stepBit P b u).1 =
      { u with count := u.count + 1#64, state := state, sreg := sreg, hreg := hreg, hcount := hcount, bps := bps } := by
  rcases stepBit_cases P b u with ⟨-, -, stepped⟩ | ⟨-, -, stepped⟩ | ⟨-, -, stepped⟩ | ⟨-, -, stepped⟩
  case inr.inr.inr =>
    obtain ⟨sreg, bps, completed⟩ := completeHeader_fst P
      { u with count := u.count + 1#64, hreg := shiftIn u.hreg b, hcount := u.hcount + 1 }
    rw [stepped, completed]
    exact ⟨_, _, _, _, _, rfl⟩
  all_goals
    rw [stepped]
    exact ⟨_, _, _, _, _, rfl⟩

theorem stepBit_count (P : Params) (b : Bool) (u : HpUnit) : (stepBit P b u).1.count = u.count + 1#64 := by
  obtain ⟨_, _, _, _, _, stepped⟩ := stepBit_fst P b u
  rw [stepped]

/-- A ready unit is ready after a bit (R164). -/
theorem runBit_ready (P : Params) (b : Bool) {s : State} (ready : s.hpReady) : (runBit P b s).hpReady := by
  obtain ⟨_, _, _, _, _, stepped⟩ := stepBit_fst P b s.hp
  rw [State.hpReady, runBit_hp, stepped]
  exact ready

theorem descOut_ne_fault (d : Option Desc) (r : FaultRecord) : descOut d ≠ .fault r := by
  cases d <;> exact nofun

/-! ### `SEARCH` (R137 to R139) -/

/-- The number of 1 bits counts the positions that hold one. -/
theorem popcount_eq_card (v : BitVec 64) : popcount v = ((Finset.range 64).filter fun i => v.getLsbD i = true).card := by
  have sameTest : (fun i => v.getLsbD i) = fun i => decide (v.getLsbD i = true) := by simp
  rw [popcount, sameTest, List.countP_eq_length_filter]
  rfl

/-- The correlator's distance is the Hamming distance of the low `L_ac` bits (R39, R138, R160). -/
theorem codeDistance_eq_hammingDistance {u : HpUnit} (legal : u.Configured) (sreg : BitVec 64) :
    codeDistance u.acode u.mask sreg = hammingDistance u sreg := by
  obtain ⟨-, len⟩ := legal.len_range
  rw [codeDistance, legal.mask_eq, popcount_eq_card, hammingDistance]
  congr 1
  ext i
  rw [Finset.mem_filter, Finset.mem_filter, Finset.mem_range, Finset.mem_range, BitVec.getLsbD_and, BitVec.getLsbD_xor,
    maskOf_getLsbD len, Bool.and_eq_true, Bool.xor_iff_ne, decide_eq_true_iff]
  constructor
  · rintro ⟨-, differ, low⟩
    exact ⟨low, differ⟩
  · rintro ⟨low, differ⟩
    exact ⟨by omega, differ, low⟩

theorem codeMatches_iff {u : HpUnit} (legal : u.Configured) (sreg : BitVec 64) :
    codeMatches u.acode u.mask u.thresh sreg = true ↔ hammingDistance u sreg ≤ u.thresh.toNat := by
  rw [codeMatches, decide_eq_true_iff, codeDistance_eq_hammingDistance legal]

theorem hammingDistance_le (u : HpUnit) (sreg : BitVec 64) : hammingDistance u sreg ≤ u.acLen.toNat :=
  (Finset.card_filter_le _ _).trans_eq (Finset.card_range _)

/-- A bit in `SEARCH` that matches (R139). -/
theorem stepBit_match {P : Params} {b : Bool} {u : HpUnit} (search : u.state = .search)
    (found : codeMatches u.acode u.mask u.thresh (shiftIn u.sreg b) = true) :
    stepBit P b u =
      ({ u with count := u.count + 1#64, sreg := shiftIn u.sreg b, state := .header, hreg := 0#64, hcount := 0 }, none) := by
  simp [stepBit, search, searchStep, found]

/-- A bit in `SEARCH` that does not match (R137). -/
theorem stepBit_noMatch {P : Params} {b : Bool} {u : HpUnit} (search : u.state = .search)
    (missed : codeMatches u.acode u.mask u.thresh (shiftIn u.sreg b) = false) :
    stepBit P b u = ({ u with count := u.count + 1#64, sreg := shiftIn u.sreg b }, none) := by
  simp [stepBit, search, searchStep, missed]

/-- Settles O36: the correlator's own test is the Hamming distance of the low `L_ac` bits. -/
theorem searchBitShiftsAndMatches : Obligations.SearchBitShiftsAndMatches := by
  intro b s ready legal search
  refine ⟨shiftIn s.hp.sreg b, shiftIn_getLsbD s.hp.sreg b, ?_⟩
  have test := codeMatches_iff legal (shiftIn s.hp.sreg b)
  cases found : codeMatches s.hp.acode s.hp.mask s.hp.thresh (shiftIn s.hp.sreg b) with
  | true =>
    rw [exec_hpBit_of_stepBit ready (stepBit_match search found), if_pos (test.1 found)]
    rfl
  | false =>
    rw [exec_hpBit_of_stepBit ready (stepBit_noMatch search found), if_neg (by simp [← test, found])]
    rfl

/-- R154: where `THRESH` is not below `L_ac`, a bit in `SEARCH` enters `HEADER`. -/
theorem stepBit_highThreshold (P : Params) (b : Bool) {u : HpUnit} (legal : u.Configured) (search : u.state = .search)
    (high : u.acLen.toNat ≤ u.thresh.toNat) : (stepBit P b u).1.state = .header := by
  have found := (codeMatches_iff legal (shiftIn u.sreg b)).2 ((hammingDistance_le u _).trans high)
  rw [stepBit_match search found]

/-- Settles O37: a sample is a bit, and no register is further from the code than the code is long. -/
theorem highThresholdAlwaysMatches : Obligations.HighThresholdAlwaysMatches := by
  intro b x s ready legal search high
  exact ⟨⟨_, hpBit_ready _ b ready, stepBit_highThreshold _ _ legal search high⟩,
    ⟨_, hpSoft_ready _ x ready, stepBit_highThreshold _ _ legal search high⟩⟩

/-! ### `HEADER` (R140 to R148) -/

/-- The unit with one more body bit in its header register, and counted (R136, R140). -/
def HpUnit.withBodyBit (u : HpUnit) (b : Bool) : HpUnit :=
  { u with count := u.count + 1#64, hreg := shiftIn u.hreg b, hcount := u.hcount + 1 }

theorem HpUnit.withBodyBit_hreg (u : HpUnit) (b : Bool) :
    (u.withBodyBit b).hreg = BitVec.ofNat 64 ((2 * u.hreg.toNat + b.toNat) % 2 ^ 64) :=
  BitVec.eq_of_toNat_eq (by rw [BitVec.toNat_ofNat, Nat.mod_mod]; exact shiftIn_toNat u.hreg b)

/-- A body bit that does not complete the header (R141). -/
theorem stepBit_body {P : Params} {b : Bool} {u : HpUnit} (header : u.state = .header) (more : u.hcount + 1 ≠ u.hdrBody) :
    stepBit P b u = (u.withBodyBit b, none) := by
  simp [stepBit, header, headerStep, more, HpUnit.withBodyBit]

/-- The body bit that completes the header (R141). -/
theorem stepBit_complete {P : Params} {b : Bool} {u : HpUnit} (header : u.state = .header)
    (last : u.hcount + 1 = u.hdrBody) : stepBit P b u = completeHeader P (u.withBodyBit b) := by
  simp [stepBit, header, headerStep, last, HpUnit.withBodyBit]

/-- Settles O38: the step of a body bit. -/
theorem headerBitShiftsIntoHeader : Obligations.HeaderBitShiftsIntoHeader := by
  intro b s ready header more
  exact ⟨shiftIn s.hp.hreg b, shiftIn_getLsbD s.hp.hreg b, exec_hpBit_of_stepBit ready (stepBit_body header more)⟩

/-! ### The header register as a number (R142 to R145) -/

/-- A 16-bit field of the header register (R94, R95). -/
theorem extractLsb'_field_toNat (v : BitVec 64) (k : Nat) :
    (v.extractLsb' k 16).toNat = v.toNat / 2 ^ k % 2 ^ 16 := by
  rw [BitVec.extractLsb'_toNat, Nat.shiftRight_eq_div_pow]

/-- Two fields agree when their exclusive or is 0 (R142, R143). -/
theorem fields_agree_iff (v : BitVec 64) (k l : Nat) :
    (v.extractLsb' k 16 ^^^ v.extractLsb' l 16 == 0#16) = true ↔
      v.toNat / 2 ^ k % 2 ^ 16 = v.toNat / 2 ^ l % 2 ^ 16 := by
  rw [beq_iff_eq, BitVec.xor_eq_zero_iff, ← BitVec.toNat_inj, extractLsb'_field_toNat, extractLsb'_field_toNat]

/-- `payload_bits` of a length field (R144, R145). -/
theorem payloadBits_eq (len : BitVec 16) : 8#32 * len.setWidth 32 = BitVec.ofNat 32 (8 * len.toNat) := by
  apply BitVec.eq_of_toNat_eq
  simp [BitVec.toNat_mul, BitVec.toNat_setWidth]

/-- `sreg` after the return to `SEARCH` (R147). -/
def sregAfterReturn (P : Params) (sreg : BitVec 64) : BitVec 64 :=
  match P.sregOnReturn with
  | .hold => sreg
  | .clear => 0#64

theorem returnToSearch_eq (P : Params) (u : HpUnit) :
    returnToSearch P u = { u with state := .search, hcount := 0, sreg := sregAfterReturn P u.sreg } := by
  unfold returnToSearch sregAfterReturn
  cases P.sregOnReturn <;> rfl

/-- The completion of a `DEFAULT` header (R142, R144, R147, R148). -/
theorem completeHeader_default {P : Params} {u : HpUnit} (variant : u.variant = .default) :
    completeHeader P u =
      ({ u with state := .search, hcount := 0, sreg := sregAfterReturn P u.sreg },
        if u.hreg.toNat / 2 ^ 16 % 2 ^ 16 = u.hreg.toNat % 2 ^ 16
        then some (.default u.count (BitVec.ofNat 32 (8 * (u.hreg.toNat % 2 ^ 16)))) else none) := by
  have check : headerOk u.variant u.hreg = true ↔ u.hreg.toNat / 2 ^ 16 % 2 ^ 16 = u.hreg.toNat % 2 ^ 16 := by
    have agree := fields_agree_iff u.hreg 16 0
    rw [Nat.pow_zero, Nat.div_one] at agree
    rw [variant]
    exact agree
  have decoded : decodeFields u = u := by rw [decodeFields, variant]
  have described : descriptor u = .default u.count (BitVec.ofNat 32 (8 * (u.hreg.toNat % 2 ^ 16))) := by
    simp only [descriptor, variant, headerLen, payloadBits_eq, extractLsb'_field_toNat, Nat.pow_zero, Nat.div_one]
  simp only [completeHeader, check, decoded, described, returnToSearch_eq]
  split <;> rfl

/-- The completion of a `COUNTER` header (R143, R145, R147, R148). -/
theorem completeHeader_counter {P : Params} {u : HpUnit} (variant : u.variant = .counter) :
    completeHeader P u =
      if u.hreg.toNat / 2 ^ 48 % 2 ^ 16 = u.hreg.toNat / 2 ^ 32 % 2 ^ 16
      then ({ u with state := .search, hcount := 0, sreg := sregAfterReturn P u.sreg,
                     bps := BitVec.ofNat 16 (u.hreg.toNat / 2 ^ 16) },
        some (.counter u.count (BitVec.ofNat 32 (8 * (u.hreg.toNat / 2 ^ 32 % 2 ^ 16)))
          (BitVec.ofNat 16 (u.hreg.toNat / 2 ^ 16)) (BitVec.ofNat 16 u.hreg.toNat)))
      else ({ u with state := .search, hcount := 0, sreg := sregAfterReturn P u.sreg }, none) := by
  have check : headerOk u.variant u.hreg = true ↔
      u.hreg.toNat / 2 ^ 48 % 2 ^ 16 = u.hreg.toNat / 2 ^ 32 % 2 ^ 16 := by
    rw [variant]
    exact fields_agree_iff u.hreg 48 32
  have bps : headerBps u.hreg = BitVec.ofNat 16 (u.hreg.toNat / 2 ^ 16) :=
    BitVec.eq_of_toNat_eq (by rw [headerBps, extractLsb'_field_toNat, BitVec.toNat_ofNat])
  have counter : headerCounter u.hreg = BitVec.ofNat 16 u.hreg.toNat :=
    BitVec.eq_of_toNat_eq (by rw [headerCounter, extractLsb'_field_toNat, BitVec.toNat_ofNat, Nat.pow_zero, Nat.div_one])
  have decoded : decodeFields u = { u with bps := headerBps u.hreg } := by rw [decodeFields, variant]
  have described : descriptor u = .counter u.count (BitVec.ofNat 32 (8 * (u.hreg.toNat / 2 ^ 32 % 2 ^ 16)))
      (headerBps u.hreg) (headerCounter u.hreg) := by
    simp only [descriptor, variant, headerLen, payloadBits_eq, extractLsb'_field_toNat]
  simp only [completeHeader, check, decoded, described, returnToSearch_eq, bps, counter]

/-- Settles O39: the completion of a `DEFAULT` header on the shifted register. -/
theorem defaultHeaderCompletes : Obligations.DefaultHeaderCompletes := by
  intro b s ready header last variant hreg len
  have shifted : (s.hp.withBodyBit b).hreg.toNat = hreg := shiftIn_toNat s.hp.hreg b
  have register : (s.hp.withBodyBit b).hreg = BitVec.ofNat 64 hreg := s.hp.withBodyBit_hreg b
  have stepped := (stepBit_complete (P := Config.params) header last).trans
    (completeHeader_default (u := s.hp.withBodyBit b) variant)
  rw [shifted] at stepped
  rw [exec_hpBit_of_stepBit ready stepped, register, apply_ite descOut]
  rfl

/-- Settles O40: the completion of a `COUNTER` header on the shifted register. -/
theorem counterHeaderCompletes : Obligations.CounterHeaderCompletes := by
  intro b s ready header last variant hreg len good bps
  have shifted : (s.hp.withBodyBit b).hreg.toNat = hreg := shiftIn_toNat s.hp.hreg b
  have register : (s.hp.withBodyBit b).hreg = BitVec.ofNat 64 hreg := s.hp.withBodyBit_hreg b
  have stepped := (stepBit_complete (P := Config.params) header last).trans
    (completeHeader_counter (u := s.hp.withBodyBit b) variant)
  rw [shifted] at stepped
  by_cases agree : good
  · rw [if_pos agree] at stepped
    rw [exec_hpBit_of_stepBit ready stepped, register, if_pos agree, if_pos agree]
    rfl
  · rw [if_neg agree] at stepped
    rw [exec_hpBit_of_stepBit ready stepped, register, if_neg agree, if_neg agree]
    rfl

/-! ### Samples (R150, R152) -/

theorem sliceOpen_iff (x : F32) : sliceOpen x = true ↔ isNaN x = true ∨ x = F32.negZero := by
  rw [sliceOpen, Bool.or_eq_true, beq_iff_eq]

/-- A sample that decides its bit is that bit, and draws nothing. -/
theorem runSoft_decided {P : Params} {x : F32} (closed : sliceOpen x = false) (s : State) :
    runSoft P x s = runBit P (decide (x ≠ F32.posZero) && P.num.lt0 x) s := by
  have bit : slice P.num (P.drawBit s.hpDraws) x = (decide (x ≠ F32.posZero) && P.num.lt0 x) := by
    simp only [slice, closed, Bool.false_eq_true, if_false, beq_iff_eq]
    by_cases zero : x = F32.posZero <;> simp [zero]
  rw [runSoft, bit, closed]
  rfl

/-- A sample that decides no bit is the bit drawn for it, and counts the draw. -/
theorem runSoft_open {P : Params} {x : F32} (opened : sliceOpen x = true) (s : State) :
    runSoft P x s = (runBit P (P.drawBit s.hpDraws) s).countHpDraws 1 := by
  rw [runSoft, slice, opened, if_pos rfl]
  rfl

/-- Settles O41: admission does not look at the operand, and the step is the bit's. -/
theorem softSampleIsItsSignBit : Obligations.SoftSampleIsItsSignBit := by
  intro x s number notNegZero
  have closed : sliceOpen x = false := by
    rw [← Bool.not_eq_true, sliceOpen_iff]
    simp [number, notNegZero]
  rw [exec_hpSoft, exec_hpBit, hpSoft_eq_admitted, hpBit_eq_admitted]
  simp only [admitted, Option.elim_some, runSoft_decided closed]

/-- Settles O42: the bit is the one the unit draws. -/
theorem openSampleStepsSomeBit : Obligations.OpenSampleStepsSomeBit := by
  intro x s ready opened
  refine ⟨Config.params.drawBit s.hpDraws, _, hpBit_ready _ _ ready, ?_⟩
  rw [exec_hpSoft, hpSoft_ready _ x ready, runSoft_open ((sliceOpen_iff x).2 opened)]
  rfl

/-! ### No fault (R164) -/

/-- A sample without its operand is refused; every other bit or sample is admission and then a bit step of the unit, with a
number of draws counted. -/
theorem exec_bitOrSample {i : Instr} (kind : (∃ b, i = .hpBit b) ∨ ∃ x, i = .hpSoft x) (s : State) :
    (i.operandsPresent = false ∧ ∃ c, exec i s = .refused (.rf c)) ∨
      ∃ b n, exec i s = admitted .hp false (fun _ => .next (runBit Config.params b (s.countHpDraws n))) s := by
  rcases kind with ⟨b, rfl⟩ | ⟨_ | x, rfl⟩
  · have noDraw : s.countHpDraws 0 = s := rfl
    exact .inr ⟨b, 0, by rw [exec_hpBit, hpBit_eq_admitted, admitted, admitted, noDraw]⟩
  · rw [exec_hpSoft, hpSoft_eq_admitted, admitted]
    cases gate .hp false s <;> exact .inl ⟨rfl, _, rfl⟩
  · exact .inr ⟨_, _, by rw [exec_hpSoft, hpSoft_eq_admitted, admitted, admitted, Option.elim_some, runSoft]⟩

/-- Settles O45: a bit step writes neither the fault nor `hp_cfg`, and its port never shows a fault. -/
theorem bitsAndSamplesNeverFault : Obligations.BitsAndSamplesNeverFault := by
  intro i s kind
  rcases exec_bitOrSample kind s with ⟨absent, refused⟩ | ⟨b, n, meaning⟩
  · exact ⟨.inl refused, fun _ present => by cases absent.symm.trans present⟩
  · obtain ⟨_, _, _, _, _, stepped⟩ := stepBit_fst Config.params b s.hp
    have kept : (runBit Config.params b (s.countHpDraws n)).hp.fault = s.hp.fault ∧
        (runBit Config.params b (s.countHpDraws n)).hp.cfg = s.hp.cfg := by
      rw [runBit_hp, State.countHpDraws_hp, stepped]
      exact ⟨rfl, rfl⟩
    rw [meaning, admitted]
    refine ⟨?_, fun ready _ => ⟨_, ?_, runBit_ready Config.params b (s := s.countHpDraws n) ready⟩⟩
    · cases gate .hp false s with
      | some c => exact .inl ⟨c, rfl⟩
      | none => exact .inr ⟨_, rfl, kept.1, kept.2, descOut_ne_fault _⟩
    · rw [gate_ready (u := .hp) ready.1 ready.2]
      rfl

end Sys2Proof.Machine
end

section
/-! A stream of bits (42_header_parser.md R136 to R158). A ready unit's run over a list of bits is the unit's own steps one
after another: the counter, the samples' bits and the distance between descriptors are read off those. -/

namespace Sys2Proof.Machine

/-! ### The unit over a list of bits -/

/-- The steps of a list of bits, in order, with the descriptors they make. -/
def stepBits (P : Params) : List Bool → HpUnit → HpUnit × List Desc
  | [], u => (u, [])
  | b :: bs, u =>
    let next := stepBit P b u
    let rest := stepBits P bs next.1
    (rest.1, next.2.toList ++ rest.2)

theorem stepBits_cons {P : Params} {b : Bool} {bs : List Bool} {u u' : HpUnit} {d : Option Desc}
    (stepped : stepBit P b u = (u', d)) :
    stepBits P (b :: bs) u = ((stepBits P bs u').1, d.toList ++ (stepBits P bs u').2) := by
  rw [stepBits, stepped]

theorem stepBits_append {P : Params} {bs cs : List Bool} {u u' : HpUnit} {ds : List Desc}
    (ran : stepBits P bs u = (u', ds)) :
    stepBits P (bs ++ cs) u = ((stepBits P cs u').1, ds ++ (stepBits P cs u').2) := by
  induction bs generalizing u ds with
  | nil =>
    cases ran
    rfl
  | cons b bs ih =>
    rw [stepBits, Prod.mk.injEq] at ran
    obtain ⟨last, descs⟩ := ran
    rw [List.cons_append, stepBits, ih (Prod.ext last rfl), ← descs, List.append_assoc]

@[simp] theorem descs_descOut (d : Option Desc) : (descOut d).descs = d.toList := by
  cases d <;> rfl

/-- A ready unit takes every bit, and the run is the unit's (R99, R164). -/
theorem execDescs_hpBit {s : State} (bits : List Bool) (ready : s.hpReady) :
    ∃ t, execDescs (bits.map .hpBit) s = some (t, (stepBits Config.params bits s.hp).2) ∧
      t.hp = (stepBits Config.params bits s.hp).1 := by
  induction bits generalizing s with
  | nil => exact ⟨s, rfl, rfl⟩
  | cons b bits ih =>
    obtain ⟨t, ran, unit⟩ := ih (runBit_ready Config.params b ready)
    refine ⟨t, ?_, unit⟩
    rw [List.map_cons, execDescs, exec_hpBit, hpBit_ready _ b ready]
    simp only [ran, Option.map_some, runBit_hp, runBit_hpPort, descs_descOut]
    rfl

/-! ### Counting (R136) -/

/-- A bit counted and then `n` more. -/
theorem count_one_add (count : BitVec 64) (n : Nat) :
    count + 1#64 + BitVec.ofNat 64 n = count + BitVec.ofNat 64 (n + 1) := by
  rw [BitVec.add_assoc, BitVec.add_comm 1#64, ← BitVec.ofNat_add]

/-- Settles O44: every bit of a run counts 1. -/
theorem bitCounterCountsEveryBit : Obligations.BitCounterCountsEveryBit := by
  intro bits s t ran
  induction bits generalizing s with
  | nil =>
    cases ran
    exact (BitVec.add_zero _).symm
  | cons b bits ih =>
    obtain ⟨v, first, rest⟩ := execAll_cons_eq_some.1 ran
    rw [hpBit_next first] at rest
    rw [ih _ rest, runBit_hp, stepBit_count, count_one_add, List.length_cons]

/-! ### Samples and bits (R157) -/

/-- Settles O43: each sample is the operation its bit is, so the two runs go through the same states. -/
theorem softStreamEqualsHardStream : Obligations.SoftStreamEqualsHardStream := by
  intro xs bits s decided
  induction decided generalizing s with
  | nil => rfl
  | @cons x b xs bits first _ ih =>
    obtain ⟨number, notNegZero, notPosZero, bit⟩ := first
    have same : exec (.hpSoft (some x)) s = exec (.hpBit b) s := by
      rw [softSampleIsItsSignBit x s number notNegZero, bit, decide_eq_true notPosZero, Bool.true_and]
    simp only [List.map_cons, execDescs, same, ih]

/-! ### Descriptors are apart (R158) -/

/-- The next `n` bits make no descriptor: a search has still to find a code and then receive a whole body, a body has more bits
to come than these. -/
def HpUnit.QuietFor (u : HpUnit) (n : Nat) : Prop :=
  (u.state = .search ∧ n ≤ u.hdrBody) ∨ (u.state = .header ∧ u.hcount + n < u.hdrBody)

/-- One bit makes no descriptor, and one bit fewer is left. -/
theorem HpUnit.QuietFor.step {n : Nat} {u : HpUnit} (P : Params) (b : Bool) (quiet : u.QuietFor (n + 1)) :
    ∃ u', stepBit P b u = (u', none) ∧ u'.QuietFor n := by
  rcases quiet with ⟨search, room⟩ | ⟨header, room⟩
  · cases found : codeMatches u.acode u.mask u.thresh (shiftIn u.sreg b) with
    | true => exact ⟨_, stepBit_match search found, .inr ⟨rfl, show 0 + n < u.hdrBody by omega⟩⟩
    | false => exact ⟨_, stepBit_noMatch search found, .inl ⟨search, Nat.le_of_succ_le room⟩⟩
  · exact ⟨_, stepBit_body header (by omega), .inr ⟨header, show u.hcount + 1 + n < u.hdrBody by omega⟩⟩

theorem stepBits_quiet (P : Params) {bits : List Bool} {u : HpUnit} (quiet : u.QuietFor bits.length) :
    (stepBits P bits u).2 = [] := by
  induction bits generalizing u with
  | nil => rfl
  | cons b bits ih =>
    obtain ⟨u', stepped, quiet'⟩ := quiet.step P b
    rw [stepBits_cons stepped, ih quiet']
    rfl

/-- Settles O46: in `SEARCH` a unit is quiet for `HDR_BODY` bits. -/
theorem descriptorsAreFarApart : Obligations.DescriptorsAreFarApart := by
  intro bits s ready search short
  obtain ⟨t, ran, -⟩ := execDescs_hpBit bits ready
  exact ⟨t, by rw [ran, stepBits_quiet _ (.inl ⟨search, short⟩)]⟩

end Sys2Proof.Machine
end

section
/-! The round trip of a header (42_header_parser.md R155, R156). The bits of a formatted header are the access code and then the
fields; shifted into a register they leave their own value, so the search ends in a match at the code's last bit and the body's
last bit completes a header whose fields are the ones formatted. -/

namespace Sys2Proof.Machine

/-! ### A register that takes a list of bits -/

/-- A shift register after a list of bits, the first one first. -/
def shiftBits (v : BitVec 64) (bits : List Bool) : BitVec 64 := bits.foldl shiftIn v

@[simp] theorem shiftBits_cons (v : BitVec 64) (b : Bool) (bits : List Bool) :
    shiftBits v (b :: bits) = shiftBits (shiftIn v b) bits := rfl

theorem bitsValue_append (xs ys : List Bool) : bitsValue (xs ++ ys) = bitsValue xs * 2 ^ ys.length + bitsValue ys := by
  induction ys using List.reverseRecOn with
  | nil => simp [bitsValue]
  | append_singleton ys b ih =>
    rw [← List.append_assoc, bitsValue_concat, bitsValue_concat, ih, List.length_append, List.length_singleton, Nat.bit_val,
      Nat.bit_val, Nat.pow_succ]
    ring

/-- The bits above the ones taken are the register's own, moved up; those above bit 63 are lost. -/
theorem shiftBits_toNat (v : BitVec 64) (bits : List Bool) :
    (shiftBits v bits).toNat = (v.toNat * 2 ^ bits.length + bitsValue bits) % 2 ^ 64 := by
  induction bits using List.reverseRecOn with
  | nil =>
    have register : v.toNat % 2 ^ 64 = v.toNat := Nat.mod_eq_of_lt v.isLt
    simpa [shiftBits, bitsValue] using register.symm
  | append_singleton bits b ih =>
    have concat : shiftBits v (bits ++ [b]) = shiftIn (shiftBits v bits) b := List.foldl_concat ..
    have power : v.toNat * 2 ^ (bits.length + 1) = 2 * (v.toNat * 2 ^ bits.length) := by ring
    rw [concat, shiftIn_toNat, ih, bitsValue_concat, List.length_append, List.length_singleton, Nat.bit_val, power]
    omega

/-! ### The bits of a header (R65, R66, R165) -/

theorem bitsValue_byteBits : ∀ v : BitVec 8, bitsValue (byteBits v) = v.toNat := by decide

theorem bytesBits_append (xs ys : List (BitVec 8)) : bytesBits (xs ++ ys) = bytesBits xs ++ bytesBits ys :=
  List.flatMap_append

theorem bitsValue_bytesBits_cons (v : BitVec 8) (vs : List (BitVec 8)) :
    bitsValue (bytesBits (v :: vs)) = v.toNat * 2 ^ (8 * vs.length) + bitsValue (bytesBits vs) := by
  have split : bytesBits (v :: vs) = byteBits v ++ bytesBits vs := List.flatMap_cons
  rw [split, bitsValue_append, bitsValue_byteBits, bytesBits_length]

/-- The code of one more byte is that byte, the highest, before the rest (R165). -/
theorem codeBytes_succ (m : Nat) (acode : BitVec 64) :
    codeBytes (8 * (m + 1)) acode = acode.extractLsb' (8 * m) 8 :: codeBytes (8 * m) acode := by
  have bytes (k : Nat) : 8 * k / 8 = k := Nat.mul_div_cancel_left k (by decide)
  rw [codeBytes, codeBytes, bytes, bytes, List.range_succ_eq_map, List.map_cons, List.map_map]
  congr 1
  refine List.map_congr_left fun t _ => ?_
  have position : 8 * (m + 1) - 8 - 8 * (t + 1) = 8 * m - 8 - 8 * t := by omega
  rw [Function.comp_apply, Nat.succ_eq_add_one, position]

/-- The code's bytes hold its low bits (R96, R165). -/
theorem bitsValue_codeBytes (m : Nat) (acode : BitVec 64) :
    bitsValue (bytesBits (codeBytes (8 * m) acode)) = acode.toNat % 2 ^ (8 * m) := by
  induction m with
  | zero => simp [codeBytes, bytesBits, bitsValue, Nat.mod_one]
  | succ m ih =>
    have length : (codeBytes (8 * m) acode).length = m := by
      rw [codeBytes_length, Nat.mul_div_cancel_left m (by decide)]
    rw [codeBytes_succ, bitsValue_bytesBits_cons, ih, length, BitVec.extractLsb'_toNat, Nat.shiftRight_eq_div_pow,
      Nat.mul_succ, Nat.pow_add, Nat.mod_mul]
    ring

/-- The 16-bit fields of a header: the length twice, and the counter variant's two more (R92, R93). -/
def headerFields (u : HpUnit) (n : BitVec 32) : List (BitVec 16) :=
  match u.variant with
  | .default => [len16 n, len16 n]
  | .counter => [len16 n, len16 n, u.bps, u.counter]

theorem headerFields_length (u : HpUnit) (n : BitVec 32) : (headerFields u n).length = fieldCount u.variant := by
  cases variant : u.variant <;> simp [headerFields, variant, fieldCount]

theorem headerBytes_eq_fields (u : HpUnit) (n : BitVec 32) :
    headerBytes u n = codeBytes u.acLen.toNat u.acode ++ (headerFields u n).flatMap fieldBytes := by
  cases variant : u.variant with
  | default => simp [headerBytes_default n variant, baseHeaderBytes, headerFields, variant]
  | counter => simp [headerBytes_counter n variant, baseHeaderBytes, headerFields, variant]

/-- The stream bits of a list of fields. -/
def fieldsBits (fields : List (BitVec 16)) : List Bool := bytesBits (fields.flatMap fieldBytes)

theorem fieldsBits_length (fields : List (BitVec 16)) : (fieldsBits fields).length = 16 * fields.length := by
  have two (x : BitVec 16) : (fieldBytes x).length = 2 := rfl
  have bytes : (fields.flatMap fieldBytes).length = fields.length * 2 := by simp [List.length_flatMap, two]
  rw [fieldsBits, bytesBits_length, bytes]
  omega

/-- A field is its two bytes, the high one first (R66). -/
theorem bitsValue_fieldsBits_cons (x : BitVec 16) (fields : List (BitVec 16)) :
    bitsValue (fieldsBits (x :: fields)) = x.toNat * 2 ^ (16 * fields.length) + bitsValue (fieldsBits fields) := by
  have field : bitsValue (bytesBits (fieldBytes x)) = x.toNat := by
    have empty : bitsValue (bytesBits []) = 0 := rfl
    have high : (x.extractLsb' 8 8).toNat = x.toNat / 256 := by
      rw [BitVec.extractLsb'_toNat, Nat.shiftRight_eq_div_pow]
      omega
    have low : (x.extractLsb' 0 8).toNat = x.toNat % 256 := BitVec.extractLsb'_toNat ..
    rw [fieldBytes, bitsValue_bytesBits_cons, bitsValue_bytesBits_cons, empty, high, low]
    simp only [List.length_cons, List.length_nil]
    omega
  rw [fieldsBits, List.flatMap_cons, bytesBits_append, bitsValue_append, field, ← fieldsBits, fieldsBits_length]

/-! ### The search and the body -/

/-- The unit after a search that found the code at the last of the bits (R139). -/
def HpUnit.foundAfter (u : HpUnit) (bits : List Bool) : HpUnit :=
  { u with count := u.count + BitVec.ofNat 64 bits.length, sreg := shiftBits u.sreg bits, state := .header, hreg := 0#64,
           hcount := 0 }

/-- The unit with more body bits in its header register, and counted (R136, R140). -/
def HpUnit.withBody (u : HpUnit) (bits : List Bool) : HpUnit :=
  { u with count := u.count + BitVec.ofNat 64 bits.length, hreg := shiftBits u.hreg bits,
           hcount := u.hcount + bits.length }

theorem HpUnit.withBody_cons (u : HpUnit) (b : Bool) (bits : List Bool) :
    u.withBody (b :: bits) = (u.withBodyBit b).withBody bits := by
  simp only [HpUnit.withBody, HpUnit.withBodyBit, count_one_add, shiftBits_cons, List.length_cons, Nat.add_assoc,
    Nat.add_comm 1]

/-- A search that finds nothing before the last of its bits and the code there (R137, R139). -/
theorem stepBits_search {P : Params} {bits : List Bool} {u : HpUnit} (nonempty : bits ≠ [])
    (search : ∀ k < bits.length, (stepBits P (bits.take k) u).1.state = .search)
    (found : codeMatches u.acode u.mask u.thresh (shiftBits u.sreg bits) = true) :
    stepBits P bits u = (u.foundAfter bits, []) := by
  induction bits generalizing u with
  | nil => exact absurd rfl nonempty
  | cons b bits ih =>
    have now : u.state = .search := search 0 (Nat.succ_pos _)
    cases bits with
    | nil => exact stepBits_cons (stepBit_match now found)
    | cons c bits =>
      have next : (stepBit P b u).1.state = .search := search 1 (by simp)
      have missed : codeMatches u.acode u.mask u.thresh (shiftIn u.sreg b) = false := by
        by_contra matched
        rw [Bool.not_eq_false] at matched
        rw [stepBit_match now matched] at next
        cases next
      have stepped := stepBit_noMatch (P := P) now missed
      have rest := ih (u := { u with count := u.count + 1#64, sreg := shiftIn u.sreg b }) (List.cons_ne_nil _ _)
        (fun k hk => by simpa [stepBits_cons stepped] using search (k + 1) (Nat.succ_lt_succ hk)) found
      rw [stepBits_cons stepped, rest]
      simp only [HpUnit.foundAfter, count_one_add, shiftBits_cons, List.length_cons, Option.toList_none, List.nil_append]

/-- A body, from its first bit to the one that completes it (R140, R141). -/
theorem stepBits_body {P : Params} {bits : List Bool} {u : HpUnit} (nonempty : bits ≠ []) (header : u.state = .header)
    (body : u.hcount + bits.length = u.hdrBody) :
    stepBits P bits u =
      ((completeHeader P (u.withBody bits)).1, (completeHeader P (u.withBody bits)).2.toList) := by
  induction bits generalizing u with
  | nil => exact absurd rfl nonempty
  | cons b bits ih =>
    cases bits with
    | nil =>
      rw [stepBits_cons (stepBit_complete header body), stepBits, List.append_nil]
      rfl
    | cons c bits =>
      rw [List.length_cons, List.length_cons] at body
      have rest := ih (u := u.withBodyBit b) (List.cons_ne_nil _ _) header
        (show u.hcount + 1 + (bits.length + 1) = u.hdrBody by omega)
      rw [stepBits_cons (stepBit_body header (by omega)), rest, u.withBody_cons]
      rfl

/-! ### The access code and the fields -/

/-- The stream bits of the unit's access code. -/
def HpUnit.codeBits (u : HpUnit) : List Bool := bytesBits (codeBytes u.acLen.toNat u.acode)

theorem HpUnit.Configured.codeBits_length {u : HpUnit} (legal : u.Configured) : u.codeBits.length = u.acLen.toNat := by
  rw [HpUnit.codeBits, bytesBits_length, codeBytes_length, Nat.mul_div_cancel' (Nat.dvd_of_mod_eq_zero legal.len_mult)]

theorem HpUnit.Configured.bitsValue_codeBits {u : HpUnit} (legal : u.Configured) :
    bitsValue u.codeBits = u.acode.toNat % 2 ^ u.acLen.toNat := by
  obtain ⟨m, len⟩ : ∃ m, u.acLen.toNat = 8 * m := Nat.dvd_of_mod_eq_zero legal.len_mult
  rw [HpUnit.codeBits, len, bitsValue_codeBytes]

/-- A register that has taken the whole access code holds it in its low bits. -/
theorem HpUnit.Configured.getLsbD_shiftBits_codeBits {u : HpUnit} (legal : u.Configured) (sreg : BitVec 64) {i : Nat}
    (low : i < u.acLen.toNat) : (shiftBits sreg u.codeBits).getLsbD i = u.acode.getLsbD i := by
  obtain ⟨-, high⟩ := legal.len_range
  have inside : i < 64 := by omega
  have below : u.acode.toNat % 2 ^ u.acLen.toNat < 2 ^ u.acLen.toNat := Nat.mod_lt _ (Nat.two_pow_pos _)
  rw [BitVec.getLsbD, shiftBits_toNat, legal.codeBits_length, legal.bitsValue_codeBits, Nat.testBit_mod_two_pow,
    Nat.mul_comm, Nat.testBit_two_pow_mul_add _ below]
  simp [low, inside, BitVec.getLsbD]

/-- It is at distance 0 from the code, which no threshold is below (R138). -/
theorem HpUnit.Configured.codeMatches_codeBits {u : HpUnit} (legal : u.Configured) (sreg : BitVec 64) :
    codeMatches u.acode u.mask u.thresh (shiftBits sreg u.codeBits) = true := by
  have distance : hammingDistance u (shiftBits sreg u.codeBits) = 0 := by
    rw [hammingDistance, Finset.card_eq_zero, Finset.filter_eq_empty_iff]
    intro i low
    simp [legal.getLsbD_shiftBits_codeBits sreg (Finset.mem_range.1 low)]
  rw [codeMatches_iff legal, distance]
  exact Nat.zero_le _

/-- The descriptor of the fields of a header counted at `count` (R144, R145). -/
def fieldsDesc (u : HpUnit) (n : BitVec 32) (count : BitVec 64) : Desc :=
  match u.variant with
  | .default => .default count (BitVec.ofNat 32 (8 * (n.toNat % 2 ^ 16)))
  | .counter => .counter count (BitVec.ofNat 32 (8 * (n.toNat % 2 ^ 16))) u.bps u.counter

/-- A header register that holds the fields of a header completes it with their descriptor (R142 to R145). -/
theorem completeHeader_fields {P : Params} {u v : HpUnit} (n : BitVec 32) (variant : v.variant = u.variant)
    (hreg : v.hreg = shiftBits 0#64 (fieldsBits (headerFields u n))) :
    (completeHeader P v).2 = some (fieldsDesc u n v.count) := by
  have len : n.toNat % 2 ^ 16 = (len16 n).toNat := (BitVec.toNat_setWidth ..).symm
  have lenBound := (len16 n).isLt
  have empty : bitsValue (fieldsBits []) = 0 := rfl
  have register : v.hreg.toNat = bitsValue (fieldsBits (headerFields u n)) % 2 ^ 64 := by
    rw [hreg, shiftBits_toNat, BitVec.toNat_ofNat, Nat.zero_mod, Nat.zero_mul, Nat.zero_add]
  rw [fieldsDesc, len]
  cases ofUnit : u.variant with
  | default =>
    have value : v.hreg.toNat = (len16 n).toNat * 2 ^ 16 + (len16 n).toNat := by
      simp only [headerFields, ofUnit, bitsValue_fieldsBits_cons, empty, List.length_cons, List.length_nil] at register
      omega
    have low : v.hreg.toNat % 2 ^ 16 = (len16 n).toNat := by omega
    have high : v.hreg.toNat / 2 ^ 16 % 2 ^ 16 = (len16 n).toNat := by omega
    rw [completeHeader_default (variant.trans ofUnit), high, low, if_pos rfl]
  | counter =>
    have bpsBound := u.bps.isLt
    have counterBound := u.counter.isLt
    have value : v.hreg.toNat =
        (len16 n).toNat * 2 ^ 48 + (len16 n).toNat * 2 ^ 32 + u.bps.toNat * 2 ^ 16 + u.counter.toNat := by
      simp only [headerFields, ofUnit, bitsValue_fieldsBits_cons, empty, List.length_cons, List.length_nil] at register
      omega
    have top : v.hreg.toNat / 2 ^ 48 = (len16 n).toNat := by omega
    have first : v.hreg.toNat / 2 ^ 48 % 2 ^ 16 = (len16 n).toNat := by rw [top, Nat.mod_eq_of_lt lenBound]
    have second : v.hreg.toNat / 2 ^ 32 % 2 ^ 16 = (len16 n).toNat := by omega
    have bps : BitVec.ofNat 16 (v.hreg.toNat / 2 ^ 16) = u.bps :=
      BitVec.eq_of_toNat_eq (by rw [BitVec.toNat_ofNat]; omega)
    have counter : BitVec.ofNat 16 v.hreg.toNat = u.counter :=
      BitVec.eq_of_toNat_eq (by rw [BitVec.toNat_ofNat]; omega)
    rw [completeHeader_counter (variant.trans ofUnit), first, second, if_pos rfl, bps, counter]

/-! ### The round trip -/

/-- A header formatted by `w`, taken by a unit of the same configuration whose search finds nothing before the code's last bit:
the code ends the search, and the fields complete the header with their own descriptor. -/
theorem stepBits_headerBytes {P : Params} {u w : HpUnit} (n : BitVec 32) (legal : u.Configured)
    (variant : u.variant = w.variant) (acLen : u.acLen = w.acLen) (acode : u.acode = w.acode)
    (search : ∀ k < u.acLen.toNat, (stepBits P ((bytesBits (headerBytes w n)).take k) u).1.state = .search) :
    ∃ u', stepBits P (bytesBits (headerBytes w n)) u =
      (u', [fieldsDesc w n (u.count + BitVec.ofNat 64 u.hdrNbits)]) ∧ u'.state = .search := by
  have stream : bytesBits (headerBytes w n) = u.codeBits ++ fieldsBits (headerFields w n) := by
    rw [headerBytes_eq_fields, bytesBits_append, ← acLen, ← acode]
    rfl
  have codeLength := legal.codeBits_length
  have fieldsLength : (fieldsBits (headerFields w n)).length = u.hdrBody := by
    rw [fieldsBits_length, headerFields_length, legal.body_eq, variant]
  have codeNonempty : u.codeBits ≠ [] := by
    obtain ⟨low, -⟩ := legal.len_range
    exact List.ne_nil_of_length_pos (by omega)
  have fieldsNonempty : fieldsBits (headerFields w n) ≠ [] :=
    List.ne_nil_of_length_pos (fieldsLength ▸ legal.hdrBody_pos)
  rw [stream] at search ⊢
  have found := stepBits_search codeNonempty
    (fun k hk => by simpa [List.take_append_of_le_length hk.le] using search k (codeLength ▸ hk))
    (legal.codeMatches_codeBits u.sreg)
  let v := (u.foundAfter u.codeBits).withBody (fieldsBits (headerFields w n))
  have body : (u.foundAfter u.codeBits).hcount + (fieldsBits (headerFields w n)).length = u.hdrBody :=
    (Nat.zero_add _).trans fieldsLength
  have described : (completeHeader P v).2 = some (fieldsDesc w n v.count) := completeHeader_fields n variant rfl
  have counted : v.count = u.count + BitVec.ofNat 64 u.hdrNbits := by
    change u.count + BitVec.ofNat 64 u.codeBits.length + BitVec.ofNat 64 (fieldsBits (headerFields w n)).length = _
    rw [codeLength, fieldsLength, BitVec.add_assoc, ← BitVec.ofNat_add, legal.nbits_eq, legal.body_eq]
  obtain ⟨sreg, bps, completed⟩ := completeHeader_fst P v
  rw [stepBits_append found, stepBits_body fieldsNonempty rfl body, described, counted]
  exact ⟨_, rfl, by rw [completed]⟩

/-- Settles O47: both runs are the parser unit's, and the code and the fields are the same for both units. -/
theorem formattedHeaderParsesBack : Obligations.FormattedHeaderParsesBack := by
  intro n s p _ legal ready legal' variant acLen acode _ early
  have search (k : Nat) (hk : k < p.hp.acLen.toNat) :
      (stepBits Config.params ((bytesBits (headerBytes s.hp n)).take k) p.hp).1.state = .search := by
    obtain ⟨q, ran, unit⟩ := execDescs_hpBit ((bytesBits (headerBytes s.hp n)).take k) ready
    rw [← unit]
    exact early k q _ (acLen ▸ hk) ran
  have size : p.hp.hdrNbits = s.hp.hdrNbits := by rw [legal'.nbits_eq, legal.nbits_eq, acLen, variant]
  obtain ⟨u', parsed, back⟩ := stepBits_headerBytes n legal' variant acLen acode search
  obtain ⟨q, ran, unit⟩ := execDescs_hpBit (bytesBits (headerBytes s.hp n)) ready
  rw [parsed, size] at ran
  rw [parsed] at unit
  exact ⟨q, ran, by rw [unit, back]⟩

end Sys2Proof.Machine
end

section
/-! Runs of format requests and the size queries (43_header_format.md R168 to R171). A format request that completes was admitted
and is `runFormat`, so a run of them counts once per request. A size query that a ready unit takes presents one of the two sizes
its configuration derived, which are the length of the header in bits and in bytes. -/

namespace Sys2Proof.Machine

/-! ### Counting format requests (R168) -/

/-- An operation completes exactly when its unit admits it and its meaning completes. -/
theorem admitted_eq_next_iff {u : UnitId} {isCfg : Bool} {body : State → Host.Outcome State Fault Refusal} {s t : State} :
    admitted u isCfg body s = .next t ↔ gate u isCfg s = none ∧ body s = .next t := by
  rw [admitted]
  cases gate u isCfg s <;> simp

theorem exec_hpFmt (n : Option (BitVec 32)) : exec (.hpFmt n) = execHpFmt n := rfl

/-- A format request that completes is formatted. -/
theorem execHpFmt_next {n : BitVec 32} {s t : State} (ran : execHpFmt (some n) s = .next t) : t = runFormat n s := by
  rw [execHpFmt_eq_admitted, admitted_eq_next_iff] at ran
  obtain ⟨-, completed⟩ := ran
  cases completed
  rfl

@[simp] theorem runFormat_hp (n : BitVec 32) (s : State) : (runFormat n s).hp = countFormat s.hp := rfl
@[simp] theorem runFormat_hpPort (n : BitVec 32) (s : State) :
    (runFormat n s).hpPort = .hdr (headerBytes s.hp n) true := rfl

theorem countFormat_counter {u : HpUnit} (variant : u.variant = .counter) :
    countFormat u = { u with counter := u.counter + 1#16 } := by
  simp only [countFormat, variant]

/-- Settles O50, by induction on the requests: each counts 1 and keeps the variant. -/
theorem formatCounterCountsModulo65536 : Obligations.FormatCounterCountsModulo65536 := by
  intro ns s t variant ran
  induction ns generalizing s with
  | nil =>
    cases ran
    exact (Nat.mod_eq_of_lt t.hp.counter.isLt).symm
  | cons n ns ih =>
    obtain ⟨v, first, rest⟩ := execAll_cons_eq_some.1 ran
    rw [exec_hpFmt] at first
    have counted : v.hp = { s.hp with counter := s.hp.counter + 1#16 } := by
      rw [execHpFmt_next first, runFormat_hp, countFormat_counter variant]
    have afterRest := ih v (by rw [counted, variant]) rest
    calc t.hp.counter.toNat
      _ = ((s.hp.counter.toNat + 1) % 2 ^ 16 + ns.length) % 2 ^ 16 := by
        rw [afterRest, counted, BitVec.toNat_add]
        rfl
      _ = (s.hp.counter.toNat + (n :: ns).length) % 2 ^ 16 := by
        rw [Nat.mod_add_mod, List.length_cons, Nat.add_assoc, Nat.add_comm 1]

/-! ### The size queries (R169 to R171) -/

theorem exec_hpQnbits : exec .hpQnbits = presentSize HpUnit.hdrNbits := rfl

theorem exec_hpQnbytes : exec .hpQnbytes = presentSize HpUnit.hdrNbytes := rfl

/-- A ready unit presents the size asked for and changes nothing (R74). -/
theorem presentSize_ready (size : HpUnit → Nat) {s : State} (ready : s.hpReady) :
    presentSize size s = .next { s with hpPort := .size (size s.hp) } := by
  obtain ⟨noFault, configured⟩ := ready
  rw [presentSize_eq_admitted, admitted_eq_next_iff]
  exact ⟨gate_ready (u := .hp) noFault configured, rfl⟩

/-- Settles O51: the sizes are the derived ones of R40, and `8` divides `L_ac` (R31). -/
theorem sizeQueriesAgreeWithHeaders : Obligations.SizeQueriesAgreeWithHeaders := by
  intro n s ready legal fields
  have fields_eq : fields = fieldCount s.hp.variant := rfl
  rw [fields_eq]
  refine ⟨?bits, ?bytes, ?agree, runFormat n s, headerBytes s.hp n, exec_hpFmt_ready n ready, runFormat_hpPort n s,
    headerBytes_length s.hp n⟩
  case bits => rw [exec_hpQnbits, presentSize_ready _ ready, legal.nbits_eq]
  case bytes => rw [exec_hpQnbytes, presentSize_ready _ ready, legal.nbytes_eq]
  case agree =>
    have wholeBytes := legal.len_mult
    omega

end Sys2Proof.Machine
end

section
/-! A configuration operation up to its table of checks (44_configure.md R175 to R179). A table is read by check number: what its
first failing check and a table without one come to is said once, for both units. Before the table stand admission and, in the
header unit, the choice of the variant. -/

namespace Sys2Proof.Machine

/-! ### A table of checks (R176, R178) -/

/-- The table answers each check from 1 to `n` as `holds` words it. -/
def TableSays (cs : List Bool) (holds : Nat → Prop) (n : Nat) : Prop :=
  ∀ p, 1 ≤ p → p ≤ n → ∃ b, cs[p - 1]? = some b ∧ (b = true ↔ holds p)

/-- The check reported is the first whose word does not hold. -/
theorem TableSays.firstFailing_eq_some {cs : List Bool} {holds : Nat → Prop} {q : Nat} (table : TableSays cs holds q)
    (pos : 1 ≤ q) (fails : ¬ holds q) (before : ∀ p, 1 ≤ p → p < q → holds p) : firstFailing 1 cs = some q := by
  refine Machine.firstFailing_eq_some.2 ⟨pos, ?failing, fun j hj => ?earlier⟩
  case failing =>
    obtain ⟨b, entry, wording⟩ := table q pos le_rfl
    rw [entry, Bool.eq_false_of_not_eq_true (mt wording.1 fails)]
  case earlier =>
    obtain ⟨b, entry, wording⟩ := table (j + 1) (by omega) (by omega)
    have holds' : b = true := wording.2 (before (j + 1) (by omega) (by omega))
    rw [← holds', ← entry, Nat.add_sub_cancel]

/-- Where the word of every check holds, none is reported. -/
theorem TableSays.firstFailing_eq_none {cs : List Bool} {holds : Nat → Prop} (table : TableSays cs holds cs.length)
    (all : ∀ p, 1 ≤ p → p ≤ cs.length → holds p) : firstFailing 1 cs = none := by
  refine Machine.firstFailing_eq_none.2 fun c mem => ?_
  obtain ⟨i, inside, rfl⟩ := List.getElem_of_mem mem
  obtain ⟨b, entry, wording⟩ := table (i + 1) (by omega) inside
  rw [Nat.add_sub_cancel, List.getElem?_eq_getElem inside, Option.some_inj] at entry
  rw [entry]
  exact wording.2 (all (i + 1) (by omega) inside)

/-! ### What is supported (R179) -/

/-- An unhalted header unit takes its configuration if it supports the variant asked for. -/
theorem exec_hpCfg_unhalted (o : HpCfgOperand) {s : State} (noFault : s.hp.fault = .none) :
    exec (.hpCfg (some o)) s =
      (supportedVariant o).elim (.refused (.rf .unsupported)) fun v => .next (runHpCfg v o s) := by
  change execHpCfg (some o) s = _
  rw [execHpCfg_some, admitted, gate_cfg (u := .hp) noFault]
  rfl

theorem variantOf_eq_none {v : BitVec 2} (other : 2 ≤ v.toNat) : variantOf v = none := by
  have not0 : v ≠ 0#2 := by bv_omega
  have not1 : v ≠ 1#2 := by bv_omega
  rw [variantOf, if_neg not0, if_neg not1]

/-- The variant that a supported `VARIANT` operand names: 0 is `DEFAULT`, else it is 1, `COUNTER` (R30). -/
def namedVariant (v : BitVec 2) : Variant := if v = 0#2 then .default else .counter

theorem variantOf_eq_some {v : BitVec 2} (named : v.toNat < 2) : variantOf v = some (namedVariant v) := by
  unfold variantOf namedVariant
  by_cases h : v = 0#2
  · rw [if_pos h, if_pos h]
  · have one : v = 1#2 := by bv_omega
    rw [if_neg h, if_neg h, if_pos one]

theorem supportedVariant_eq_none {o : HpCfgOperand} (other : 2 ≤ o.variant.toNat ∨ o.scramble = true) :
    supportedVariant o = none := by
  unfold supportedVariant
  cases scramble : o.scramble with
  | true => rfl
  | false => exact variantOf_eq_none (other.resolve_right (by simp [scramble]))

theorem supportedVariant_eq_some {o : HpCfgOperand} (named : o.variant.toNat < 2) (plain : o.scramble = false) :
    supportedVariant o = some (namedVariant o.variant) := by
  simp only [supportedVariant, plain, variantOf_eq_some named, Bool.false_eq_true, if_false]

/-- An unhalted header unit runs the configuration it supports. -/
theorem exec_hpCfg_supported {o : HpCfgOperand} {s : State} (noFault : s.hp.fault = .none)
    (named : o.variant.toNat < 2) (plain : o.scramble = false) :
    exec (.hpCfg (some o)) s = .next (runHpCfg (namedVariant o.variant) o s) := by
  rw [exec_hpCfg_unhalted o noFault, supportedVariant_eq_some named plain]
  rfl

/-- Settles O15: the choice of the variant comes before the table of checks. -/
theorem unsupportedFeaturesAreRefused : Obligations.UnsupportedFeaturesAreRefused := by
  intro o s noFault other
  rw [exec_hpCfg_unhalted o noFault, supportedVariant_eq_none other]
  rfl

end Sys2Proof.Machine
end

section
/-! The configuration of the engine (44_configure.md R175, R176, R180, R182; 41_acquisition.md R112; 40_phase_lut.md R101). Checks
7 and 9 are about a known symbol that has the entries they read, which check 4 has established before them. -/

namespace Sys2Proof.Machine

/-! ### The operation and its two ends (R194, R182, R180) -/

theorem exec_aeCfg (cfg : Option AeCfgOperand) : exec (.aeCfg cfg) = aeCfg Config.params cfg := rfl

/-- An unhalted engine takes its configuration, configured or not. -/
theorem aeCfg_unhalted (P : Params) (o : AeCfgOperand) {s : State} (noFault : s.ae.fault = .none) :
    aeCfg P (some o) s = .next (runAeCfg P o s) := by
  rw [aeCfg_eq_admitted, admitted_eq_next_iff]
  exact ⟨gate_cfg (u := .ae) noFault, rfl⟩

theorem runAeCfg_failed {P : Params} {o : AeCfgOperand} {q : Nat} (s : State)
    (first : firstFailing 1 (aeChecks P o) = some q) :
    runAeCfg P o s = { s with ae := { s.ae with cfg := false, fault := .eCfg },
                              aePort := .fault ⟨.ae, .eCfg, .check q⟩ } := by
  rw [runAeCfg, first]
  rfl

theorem runAeCfg_legal {P : Params} {o : AeCfgOperand} (s : State) (legal : firstFailing 1 (aeChecks P o) = none) :
    runAeCfg P o s = { s with ae := configuredAe P o s.ae, aePort := .idle } := by
  rw [runAeCfg, legal]
  rfl

/-! ### The known symbol (R28, R112) -/

/-- An element that is there is the one read. -/
theorem nth_of_getElem?_eq_some {α : Type} (d : α) {l : List α} {i : Nat} {x : α} (entry : l[i]? = some x) :
    nth d l i = x := by
  rw [nth, entry, Option.getD_some]

/-- Check 7 looks at the even entries below `O` of a known symbol that has them (R176). -/
theorem evenTapsNonzero_iff {ksym : List C32} {occ : Nat} (stored : occ ≤ ksym.length) :
    evenTapsNonzero ksym occ = true ↔
      ∀ i z, i < occ → i % 2 = 0 → ksym[i]? = some z → isZeroC z = false := by
  have entry (i : Nat) (hi : i < occ) : ksym[i]? = some (nth C32.zero ksym i) := by
    rw [nth_eq_getElem _ (hi.trans_le stored), List.getElem?_eq_getElem]
  simp only [evenTapsNonzero, List.all_eq_true, List.mem_range, Bool.or_eq_true, bne_iff_ne, ne_eq, Bool.not_eq_true']
  constructor
  · intro nonzero i z hi even found
    rw [entry i hi, Option.some_inj] at found
    exact found ▸ (nonzero i hi).resolve_left (not_not_intro even)
  · intro nonzero i hi
    exact or_iff_not_imp_left.2 fun even => nonzero i _ hi (not_not.1 even) (entry i hi)

/-- The entries of `K` are the differentials of the known symbol's entries two apart (R112). -/
theorem knownDifferential_getElem? (P : Params) {o : AeCfgOperand} {j : Nat} {x y : C32} (inside : j + 2 < o.occ)
    (hx : o.ksym[j]? = some x) (hy : o.ksym[j + 2]? = some y) :
    (knownDifferential P o)[j]? = some (P.num.cnorm2 (P.num.csub x y)) := by
  have left : nth P.noValue (storedKsym o) j = x :=
    nth_of_getElem?_eq_some _ ((List.getElem?_take_of_lt (by omega)).trans hx)
  have right : nth P.noValue (storedKsym o) (j + 2) = y :=
    nth_of_getElem?_eq_some _ ((List.getElem?_take_of_lt inside).trans hy)
  rw [knownDifferential, differential, List.getElem?_map, List.getElem?_range (by omega), Option.map_some, left, right]

@[simp] theorem knownDifferential_length (P : Params) (o : AeCfgOperand) :
    (knownDifferential P o).length = o.occ - 2 := by
  simp [knownDifferential, differential]

/-- A property of every entry of `K`, entry by entry of a known symbol that has `O` entries. -/
theorem forall_mem_knownDifferential_iff {P : Params} {o : AeCfgOperand} (stored : o.occ ≤ o.ksym.length)
    (good : F32 → Prop) : (∀ k ∈ knownDifferential P o, good k) ↔
      ∀ j x y, j + 2 < o.occ → o.ksym[j]? = some x → o.ksym[j + 2]? = some y →
        good (P.num.cnorm2 (P.num.csub x y)) := by
  constructor
  · intro all j x y inside hx hy
    exact all _ (List.mem_of_getElem? (knownDifferential_getElem? P inside hx hy))
  · intro all k mem
    obtain ⟨j, hj, rfl⟩ := List.getElem_of_mem mem
    rw [knownDifferential_length] at hj
    have hx := List.getElem?_eq_getElem (show j < o.ksym.length by omega)
    have hy := List.getElem?_eq_getElem (show j + 2 < o.ksym.length by omega)
    have entry := knownDifferential_getElem? P (by omega) hx hy
    rw [(List.getElem?_eq_some_iff.1 entry).2]
    exact all j _ _ (by omega) hx hy

/-! ### The checks of the engine (R176) -/

/-- The table of R176 check by check. Checks 7 and 9 read the known symbol, whose length check 4 has established before. -/
theorem aeChecks_says {P : Params} {o : AeCfgOperand} {n : Nat} (last : n ≤ 9)
    (stored : 4 < n → o.occ ≤ o.ksym.length) : TableSays (aeChecks P o) (AeCheckHolds P o) n := by
  intro p pos le
  match p, pos, le with
  | 1, _, _ | 2, _, _ | 3, _, _ | 4, _, _ | 5, _, _ | 6, _, _ => exact ⟨_, rfl, decide_eq_true_iff⟩
  | 7, _, le => exact ⟨_, rfl, evenTapsNonzero_iff (stored (by omega))⟩
  | 8, _, _ => exact ⟨_, rfl, by simp only [AeCheckHolds, Bool.and_eq_true, decide_eq_true_eq, and_assoc]⟩
  | 9, _, le =>
    refine ⟨_, rfl, ?_⟩
    simp only [List.all_eq_true, Bool.or_eq_true]
    exact forall_mem_knownDifferential_iff (stored (by omega)) _
  | p + 10, _, le => omega

/-- Settles O16: the table reports the first check that fails, and the report halts the engine. -/
theorem failedAeCheckHaltsEngine : Obligations.FailedAeCheckHaltsEngine := by
  intro P o q s noFault pos last fails before
  have table : TableSays (aeChecks P o) (AeCheckHolds P o) q := aeChecks_says last (before 4 (by decide))
  have ran := aeCfg_unhalted P o noFault
  rw [runAeCfg_failed s (table.firstFailing_eq_some pos fails before)] at ran
  refine ⟨ran, ?_⟩
  rintro rfl
  exact ran

/-! ### The configured engine (R175, R180) -/

/-- R36: `Z` is half of `F - O`, rounded up. -/
theorem two_mul_zerosOf (f o : Nat) : 2 * zerosOf f o = f - o ∨ 2 * zerosOf f o = f - o + 1 := by
  unfold zerosOf
  omega

theorem phaseLut_length (num : Numerics) (m cp f : Nat) : (phaseLut num m cp f).length = 2 * m + 1 := by
  simp [phaseLut]

/-- A row of the table has a phase for every column (R101). -/
theorem phaseLut_row {num : Numerics} {m cp f h : Nat} {row : List C32} (entry : (phaseLut num m cp f)[h]? = some row) :
    row = (List.range maxNumSymbols).map fun n => num.phaseTab h n m cp f := by
  obtain ⟨inside, rfl⟩ := List.getElem?_eq_some_iff.1 entry
  simp [phaseLut]

theorem phaseLut_row_length {num : Numerics} {m cp f h : Nat} {row : List C32}
    (entry : (phaseLut num m cp f)[h]? = some row) : row.length = maxNumSymbols := by
  rw [phaseLut_row entry, List.length_map, List.length_range]

theorem phaseLut_row_getElem? {num : Numerics} {m cp f h n : Nat} {row : List C32}
    (entry : (phaseLut num m cp f)[h]? = some row) (column : n < maxNumSymbols) :
    row[n]? = some (num.phaseTab h n m cp f) := by
  rw [phaseLut_row entry, List.getElem?_map, List.getElem?_range column, Option.map_some]

theorem configuredAe_lut_direct {P : Params} {o : AeCfgOperand} (ae : AeUnit) (src : o.phaseSrc = .direct) :
    (configuredAe P o ae).lut = none := by
  simp only [configuredAe, src]

theorem configuredAe_lut_lut {P : Params} {o : AeCfgOperand} (ae : AeUnit) (src : o.phaseSrc = .lut) :
    (configuredAe P o ae).lut = some (phaseLut P.num o.maxShift o.cpLen o.fftLen) := by
  simp only [configuredAe, src]

/-- Settles O17: no check is reported, and the engine is the configured one, register by register. -/
theorem aeCfgConfiguresAndResets : Obligations.AeCfgConfiguresAndResets := by
  intro o s noFault all
  have stored : o.occ ≤ o.ksym.length := all 4 (by decide) (by decide)
  have legal : firstFailing 1 (aeChecks Config.params o) = none :=
    (aeChecks_says (n := 9) le_rfl fun _ => stored).firstFailing_eq_none all
  refine ⟨configuredAe Config.params o s.ae, ?ran, rfl, rfl, rfl, rfl, rfl, rfl, ?count, ?entries, ?zeros, ?kcount, ?kdiff,
    ?direct, ?lut, rfl, rfl, rfl, rfl, rfl, noFault⟩
  case ran => rw [exec_aeCfg, aeCfg_unhalted _ o noFault, runAeCfg_legal s legal]
  case count => exact List.length_take_of_le stored
  case entries => exact fun i hi => List.getElem?_take_of_lt hi
  case zeros => exact two_mul_zerosOf o.fftLen o.occ
  case kcount => exact knownDifferential_length _ o
  case kdiff => exact fun j x y inside hx hy => knownDifferential_getElem? _ inside hx hy
  case direct => exact configuredAe_lut_direct s.ae
  case lut =>
    exact fun src => ⟨_, configuredAe_lut_lut s.ae src, phaseLut_length .., fun h row entry =>
      ⟨phaseLut_row_length entry, fun n column => phaseLut_row_getElem? entry column⟩⟩

end Sys2Proof.Machine
end

section
/-! The configuration of the header unit (44_configure.md R177, R178, R180, R182; 10_state.md R31 to R40). The checks make every
operand fit the register it is loaded into. -/

namespace Sys2Proof.Machine

/-! ### The operation's two ends (R182, R180) -/

theorem runHpCfg_failed {o : HpCfgOperand} {q : Nat} (v : Variant) (s : State)
    (first : firstFailing 1 (hpChecks o) = some q) :
    runHpCfg v o s = { s with hp := { s.hp with cfg := false, fault := .eCfg },
                              hpPort := .fault ⟨.hp, .eCfg, .check q⟩ } := by
  rw [runHpCfg, first]
  rfl

theorem runHpCfg_legal {o : HpCfgOperand} (v : Variant) (s : State) (legal : firstFailing 1 (hpChecks o) = none) :
    runHpCfg v o s = { s with hp := configuredHp v o s.hp, hpPort := .idle } := by
  rw [runHpCfg, legal]
  rfl

/-! ### The checks of the header unit (R178) -/

/-- The table of R178 check by check. -/
theorem hpChecks_says {o : HpCfgOperand} {n : Nat} (last : n ≤ 4) : TableSays (hpChecks o) (HpCheckHolds o) n := by
  intro p pos le
  match p, pos, le with
  | 1, _, _ | 3, _, _ | 4, _, _ => exact ⟨_, rfl, decide_eq_true_iff⟩
  | 2, _, _ => exact ⟨_, rfl, by simp only [HpCheckHolds, Bool.and_eq_true, decide_eq_true_eq]⟩
  | p + 5, _, le => omega

/-- Settles O18: the table reports the first check that fails, and the report halts the unit. -/
theorem failedHpCheckHaltsParser : Obligations.FailedHpCheckHaltsParser := by
  intro o q s noFault named plain pos last fails before
  have first := (hpChecks_says last).firstFailing_eq_some pos fails before
  rw [exec_hpCfg_supported noFault named plain, runHpCfg_failed _ s first]

/-! ### The configured header unit (R177, R180) -/

theorem namedVariant_eq_default_iff (v : BitVec 2) : namedVariant v = .default ↔ v = 0#2 := by
  simp [namedVariant]

theorem fieldCount_namedVariant (v : BitVec 2) : 16 * fieldCount (namedVariant v) = if v = 0#2 then 32 else 64 := by
  unfold namedVariant
  split <;> rfl

/-- R40: the header's size in bytes is its size in bits, because `L_ac` is a multiple of 8. -/
theorem configuredHp_sizes_agree (v : Variant) {o : HpCfgOperand} (hp : HpUnit) (wholeBytes : o.acLen % 8 = 0) :
    8 * (configuredHp v o hp).hdrNbytes = (configuredHp v o hp).hdrNbits := by
  change 8 * (o.acLen / 8 + 2 * fieldCount v) = o.acLen + 16 * fieldCount v
  omega

/-- R32: the access code is the pattern below `L_ac`. -/
theorem configuredHp_acode_getLsbD (v : Variant) {o : HpCfgOperand} (hp : HpUnit) (fits : o.acLen ≤ 64) (i : Nat) :
    (configuredHp v o hp).acode.getLsbD i = (decide (i < o.acLen) && o.pattern.getLsbD i) := by
  change (o.pattern &&& maskOf o.acLen).getLsbD i = _
  rw [BitVec.getLsbD_and, maskOf_getLsbD fits, Bool.and_comm]

/-- Settles O19: no check is reported, the unit is the configured one, and the checks make every operand fit its register. -/
theorem hpCfgConfiguresAndResets : Obligations.HpCfgConfiguresAndResets := by
  intro o s noFault named plain all
  have wholeBytes : o.acLen % 8 = 0 := all 1 (by decide) (by decide)
  obtain ⟨-, len⟩ : 8 ≤ o.acLen ∧ o.acLen ≤ 64 := all 2 (by decide) (by decide)
  have thresh : o.thresh ≤ 64 := all 3 (by decide) (by decide)
  have bps : o.bpsInit < 2 ^ 16 := all 4 (by decide) (by decide)
  have legal : firstFailing 1 (hpChecks o) = none := (hpChecks_says (n := 4) le_rfl).firstFailing_eq_none all
  refine ⟨configuredHp (namedVariant o.variant) o s.hp, ?ran, namedVariant_eq_default_iff _, Nat.mod_eq_of_lt (by omega),
    Nat.mod_eq_of_lt (by omega), Nat.mod_eq_of_lt bps, rfl, maskOf_getLsbD len, configuredHp_acode_getLsbD _ s.hp len,
    fieldCount_namedVariant _, rfl, configuredHp_sizes_agree _ s.hp wholeBytes, rfl, rfl, rfl, rfl, rfl,
    Nat.mod_eq_of_lt bps, rfl, rfl, noFault⟩
  rw [exec_hpCfg_supported noFault named plain, runHpCfg_legal _ s legal]

end Sys2Proof.Machine
end

section
/-! Admission of an operation (60_exceptions.md R192, R194; 10_state.md R22, R45, R53). Whatever its row, an operation first passes
the gate of its unit, and then its operand is looked at. The three refusals that no meaning decides follow from these two facts and
from what the gate answers. -/

namespace Sys2Proof.Machine

/-! ### The gate stands before every meaning -/

/-- The two configuration operations, to which `RF_UNCONFIGURED` does not apply (R194). -/
def isCfgKind (k : OpKind) : Bool := decide (k = .aeCfg ∨ k = .hpCfg)

theorem isCfgKind_iff {k : OpKind} : isCfgKind k = true ↔ k = .aeCfg ∨ k = .hpCfg := decide_eq_true_iff

theorem isCfgKind_eq_false {k : OpKind} (notAe : k ≠ .aeCfg) (notHp : k ≠ .hpCfg) : isCfgKind k = false :=
  decide_eq_false (not_or.2 ⟨notAe, notHp⟩)

theorem admitted_of_gate_some {u : UnitId} {isCfg : Bool} {s : State} {c : RfCode}
    (body : State → Host.Outcome State Fault Refusal) (closed : gate u isCfg s = some c) :
    admitted u isCfg body s = .refused (.rf c) := by
  rw [admitted, closed]
  rfl

theorem admitted_of_gate_none {u : UnitId} {isCfg : Bool} {s : State}
    (body : State → Host.Outcome State Fault Refusal) (opened : gate u isCfg s = none) :
    admitted u isCfg body s = body s := by
  rw [admitted, opened]
  rfl

theorem withTuple_of_gate_some {s : State} {c : RfCode} (tuple : Option Tuple) (body : Tuple → State)
    (closed : gate .ae false s = some c) : withTuple tuple s body = .refused (.rf c) := by
  simp only [withTuple, closed]

theorem withTuple_none {s : State} (body : Tuple → State) (opened : gate .ae false s = none) :
    withTuple none s body = .refused (.rf .badOperand) := by
  simp only [withTuple, opened, takeTuple]

theorem aeDat_none (P : Params) {s : State} (opened : gate .ae false s = none) :
    aeDat P none s = .refused (.rf .badOperand) := by
  rw [aeDat, withTuple_none _ opened]

theorem aePre_none (P : Params) {s : State} (opened : gate .ae false s = none) :
    aePre P none s = .refused (.rf .badOperand) := by
  rw [aePre, withTuple_none _ opened]

/-- What the gate of its unit refuses, an operation of any row refuses. -/
theorem exec_of_gate_some {i : Instr} {s : State} {c : RfCode}
    (closed : gate i.kind.unit (isCfgKind i.kind) s = some c) : exec i s = .refused (.rf c) := by
  cases i with
  | aeCfg cfg => exact (congrFun (aeCfg_eq_admitted _ cfg) s).trans (admitted_of_gate_some _ closed)
  | aeDat tuple => exact withTuple_of_gate_some tuple _ closed
  | aePre _ tuple => exact withTuple_of_gate_some tuple _ closed
  | hpBit b => exact (congrFun (hpBit_eq_admitted _ b) s).trans (admitted_of_gate_some _ closed)
  | hpSoft x => exact (congrFun (hpSoft_eq_admitted _ x) s).trans (admitted_of_gate_some _ closed)
  | hpFmt n => exact (congrFun (execHpFmt_eq_admitted n) s).trans (admitted_of_gate_some _ closed)
  | hpQnbits => exact (congrFun (presentSize_eq_admitted _) s).trans (admitted_of_gate_some _ closed)
  | hpQnbytes => exact (congrFun (presentSize_eq_admitted _) s).trans (admitted_of_gate_some _ closed)
  | hpCfg cfg =>
    cases cfg with
    | none => exact (congrFun execHpCfg_none s).trans (admitted_of_gate_some _ closed)
    | some o => exact (congrFun (execHpCfg_some o) s).trans (admitted_of_gate_some _ closed)

/-- Past the gate, an operation of any row that has an operand refuses one that does not hold its format. -/
theorem exec_malformed_of_gate_none {i : Instr} {s : State} (malformed : i.operandsPresent = false)
    (opened : gate i.kind.unit (isCfgKind i.kind) s = none) : exec i s = .refused (.rf .badOperand) := by
  match i, malformed with
  | .aeCfg none, _ => exact (congrFun (aeCfg_eq_admitted Config.params none) s).trans (admitted_of_gate_none _ opened)
  | .aeDat none, _ => exact aeDat_none Config.params opened
  | .aePre _ none, _ => exact aePre_none Config.params opened
  | .hpSoft none, _ => exact (congrFun (hpSoft_eq_admitted Config.params none) s).trans (admitted_of_gate_none _ opened)
  | .hpFmt none, _ => exact (congrFun (execHpFmt_eq_admitted none) s).trans (admitted_of_gate_none _ opened)
  | .hpCfg none, _ => exact (congrFun execHpCfg_none s).trans (admitted_of_gate_none _ opened)

/-! ### The refusals in their order (R194) -/

/-- Settles O11: the gate of a halted unit is closed to every operation. -/
theorem haltedUnitRefusesEveryOperation : Obligations.HaltedUnitRefusesEveryOperation :=
  fun _ _ halted => exec_of_gate_some (gate_halted halted)

/-- Settles O12: the gate of an unconfigured unit is closed to all but its configuration operation. -/
theorem unconfiguredUnitRefusesOperations : Obligations.UnconfiguredUnitRefusesOperations := by
  intro i s noFault unconfigured notAe notHp
  apply exec_of_gate_some
  rw [isCfgKind_eq_false notAe notHp]
  exact gate_unconfigured noFault unconfigured

/-- Settles O13: under its conditions the gate is open, and the operand is looked at next. -/
theorem malformedOperandIsRefused : Obligations.MalformedOperandIsRefused := by
  intro i s malformed noFault cfgOrConfigured
  exact exec_malformed_of_gate_none malformed
    (gate_eq_none.2 ⟨noFault, cfgOrConfigured.symm.imp_left isCfgKind_iff.2⟩)

end Sys2Proof.Machine
end

section
/-! What every step does, whatever is presented (60_exceptions.md R188, R189, R192): it goes on with one operation fewer, and it
leaves a halted unit alone. An operation of the halted unit is refused, and an operation of the other unit writes only its own. -/

namespace Sys2Proof.Machine

/-! ### The step goes on -/

/-- An operation's outcome, settled, is a next state with the same operations presented. -/
theorem settle_exec_goesOn (i : Instr) (s : State) : ∃ t, settle s (exec i s) = .next t ∧ t.pending = s.pending := by
  rcases exec_next_or_refused i s with ⟨t, ran, kept, -⟩ | ⟨c, refused⟩
  · exact ⟨t, by rw [ran, settle_next], kept⟩
  · exact ⟨s.refuse c, by rw [refused, settle_rf], rfl⟩

/-- Settles O7, by what stands first in the queue: nothing, a reserved selector, or an operation. -/
theorem everyStepGoesOn : Obligations.EveryStepGoesOn := by
  intro s
  cases presented : s.pending with
  | nil => exact ⟨s, by simp only [step, presented], presented⟩
  | cons op rest =>
    cases decoded : decode op with
    | error e => exact ⟨_, step_of_decode_error presented decoded, rfl⟩
    | ok i =>
      rw [step_of_decode_ok presented decoded]
      exact settle_exec_goesOn i (s.taken rest)

/-! ### A halted unit -/

/-- An update of one unit's part of the state leaves what the other unit reads. -/
theorem State.sameUnit_withUnitOf_of_ne (s t : State) {u v : UnitId} (other : v ≠ u) :
    s.SameUnit u (s.withUnitOf v t) := by
  cases u <;> cases v
  case ae.ae | hp.hp => exact absurd rfl other
  case ae.hp | hp.ae => exact ⟨rfl, rfl⟩

/-- Taking an operation from the queue changes nothing that a unit reads. -/
theorem State.sameUnit_taken_iff {s t : State} {u : UnitId} (rest : List RawOp) :
    (s.taken rest).SameUnit u t ↔ s.SameUnit u t := by
  cases u <;> rfl

theorem State.unitFault_taken (s : State) (rest : List RawOp) (u : UnitId) :
    (s.taken rest).unitFault u = s.unitFault u := by
  cases u <;> rfl

/-- Reporting a refusal changes nothing that a unit reads. -/
theorem State.sameUnit_refuse (s : State) (c : RfCode) (u : UnitId) : s.SameUnit u (s.refuse c) := by
  cases u <;> exact ⟨rfl, rfl⟩

/-- An operation that completes beside a halted unit is one of the other unit, and leaves the halted one alone. -/
theorem exec_keeps_halted_unit {i : Instr} {s t : State} {u : UnitId} (halted : s.unitFault u ≠ .none)
    (ran : exec i s = .next t) : s.SameUnit u t := by
  have other : i.kind.unit ≠ u := by
    rintro rfl
    rw [haltedUnitRefusesEveryOperation i s halted] at ran
    cases ran
  rw [exec_frame rfl ran]
  exact s.sameUnit_withUnitOf_of_ne t other

/-- A step leaves a halted unit's registers, its fault and its draw counter as they were. -/
theorem step_keeps_halted_unit {s t : State} {u : UnitId} (halted : s.unitFault u ≠ .none) (stepped : step s = .next t) :
    s.SameUnit u t := by
  rcases step_next_cases stepped with ⟨-, rfl⟩ | ⟨op, rest, -, took⟩
  · exact .refl _ u
  · rw [← State.sameUnit_taken_iff rest]
    rcases took with ⟨c, rfl⟩ | ⟨i, -, ran⟩
    · exact State.sameUnit_refuse _ c u
    · exact exec_keeps_halted_unit (by rwa [State.unitFault_taken]) ran

/-- Settles O20: the step keeps either unit once it is halted. -/
theorem haltedUnitNeverChanges : Obligations.HaltedUnitNeverChanges := by
  intro s t stepped
  refine ⟨fun halted => ?ae, fun halted => ?hp⟩
  case ae => exact (step_keeps_halted_unit (u := .ae) halted stepped).1
  case hp => exact (step_keeps_halted_unit (u := .hp) halted stepped).1

end Sys2Proof.Machine
end

section
/-! The power-on state (70_reset_and_hazards.md R205): what the spec gives of it, and that it starts the invariant which every
step keeps. The invariant rests on what R205 gives, each unit unconfigured and without a fault, and of log 1's own values only
on `phase_count` and the idle header machine. -/

namespace Sys2Proof.Machine

/-- Settles O10: each unit's power-on record holds the two values R205 gives. -/
theorem powerOnUnitsAreUnconfigured : Obligations.PowerOnUnitsAreUnconfigured :=
  ⟨rfl, rfl, rfl, rfl⟩

/-- A searching parser that holds no fault needs only a cleared bit counter and a legal configuration. -/
theorem HpUnit.Inv.of_noFault_search {u : HpUnit} (hf : u.fault = .none) (hs : u.state = .search) (hn : u.hcount = 0)
    (hc : u.cfg = true → u.Configured) : u.Inv where
  search_count _ := hn
  header_count h := by cases hs.symm.trans h
  header_bits h := by cases hs.symm.trans h
  configured := hc
  fault_legal h := by cases hf.symm.trans h
  failed h := by cases hf.symm.trans h

/-- The power-on state has the invariant whatever the parameters: no unit is configured, so no parameter is read. -/
theorem reset_inv (P : Params) : State.reset.Inv P := by
  obtain ⟨aeCfg, aeFault, hpCfg, hpFault⟩ := powerOnUnitsAreUnconfigured
  constructor
  case left => exact .of_noFault aeFault phaseCount_start fun h => by cases aeCfg.symm.trans h
  case right => exact .of_noFault_search hpFault rfl rfl fun h => by cases hpCfg.symm.trans h

/-- Settles O9. -/
theorem powerOnStateIsLegal : Obligations.PowerOnStateIsLegal :=
  reset_inv Config.params

end Sys2Proof.Machine
end
